-- ==== Sys2Proof/Word.lean ====
section
/-! DEFINITION. The engine's data word (R10, `00_scope.md`): 32 bits, unsigned, no signed value anywhere.
A line id `0 .. NUM_LINES-1` (R9, R10) stands in 5 bits of a register; the machine only compares it and uses it as an
index, so it is a `Nat` once read out of its field. -/

namespace Sys2Proof

/-- A data word: IDCODEs, shift patterns, echoes and registers are 32 bits wide (R10). -/
abbrev Word := BitVec 32

/-- An 8-bit word index into the register space (R50, `20_memory.md`). -/
abbrev RegIndex := BitVec 8

end Sys2Proof
end

