-- ==== Sys2Proof/Syntax.lean ====
section
/-! DEFINITION. The 24 commands of R74 (`30_encoding.md`), one constructor per row of `spec/opcode_table.json`. -/

namespace Sys2Proof

/-- A command with its operands (R72): `b` is a level (field `B`), `n` an unsigned count (field `N`). -/
inductive Instr where
  /-- R90 -/
  | nop
  /-- R91 -/
  | lrelease
  /-- R92 -/
  | jbind
  /-- R93 -/
  | sbind
  /-- R106 -/
  | jclk
  /-- R107 -/
  | jtdi (b : Bool)
  /-- R108 -/
  | jtms (b : Bool)
  /-- R109 -/
  | jrdb
  /-- R110 -/
  | jidle
  /-- R111 -/
  | jsdr
  /-- R112 -/
  | jsir
  /-- R113 -/
  | jshift (n : Nat)
  /-- R114 -/
  | jsend (n : Nat)
  /-- R115 -/
  | jtrst (b : Bool)
  /-- R130 -/
  | jdetect
  /-- R132 -/
  | jids (n : Nat)
  /-- R133 -/
  | jbypass (n : Nat)
  /-- R134 -/
  | jidchk
  /-- R154 -/
  | slrst
  /-- R155 -/
  | swake
  /-- R156 -/
  | sj2s
  /-- R157 -/
  | ss2j
  /-- R158 -/
  | sidcode
  /-- R159 -/
  | sprobe
deriving DecidableEq, Repr

end Sys2Proof
end

