-- ==== Sys2Proof/WellFormed.lean ====
section
/-! DEFINITION. Which commands have an encoding: the count operand fits the 16-bit field `N` (R70, R72). The level
operand is one bit by its type, and the other commands have no operand. -/

namespace Sys2Proof

/-- The count `n` is in `0 .. 65535` (R72). -/
def countFits (n : Nat) : Bool := decide (n < 65536)

/-- The command can be written as a command word (R70, R72, R73). The ranges of R184 are not part of this: a
count outside a command's range is encodable and finishes `E_RANGE`. -/
def Instr.wf : Instr → Bool
  | .nop => true
  | .lrelease => true
  | .jbind => true
  | .sbind => true
  | .jclk => true
  | .jtdi _ => true
  | .jtms _ => true
  | .jrdb => true
  | .jidle => true
  | .jsdr => true
  | .jsir => true
  | .jshift n => countFits n
  | .jsend n => countFits n
  | .jtrst _ => true
  | .jdetect => true
  | .jids n => countFits n
  | .jbypass n => countFits n
  | .jidchk => true
  | .slrst => true
  | .swake => true
  | .sj2s => true
  | .ss2j => true
  | .sidcode => true
  | .sprobe => true

end Sys2Proof
end

