-- ==== Sys2Proof/Decode.lean ====
section
/-! DEFINITION. The decoder of R71 (`30_encoding.md`), total on 32-bit words, the encoder of R78, and the rows of
R74's table. A command is one word written whole to `CMD` (R53, R77), so the decoder takes a word, not bytes. -/

namespace Sys2Proof

/-- Why a word is not a command (R71, R75). The machine reports every reason as `E_ILLEGAL`. -/
inductive Reject where
  /-- `OPC` is in none of R74's rows. -/
  | undefinedOpcode
  /-- `RSV` is not 0. -/
  | reservedNonzero
  /-- `B` is set and the command uses no `B`. -/
  | unusedB
  /-- `N` is not 0 and the command uses no `N`. -/
  | unusedN
deriving DecidableEq, Repr

/-- Field `OPC` of a command word (R70). -/
def wordOpc (w : Word) : BitVec 8 := w.extractLsb' 0 8

/-- Field `B` (R70). -/
def wordB (w : Word) : Bool := w.getLsbD 8

/-- Field `RSV` (R70). -/
def wordRsv (w : Word) : BitVec 7 := w.extractLsb' 9 7

/-- Field `N` (R70, R72): zero-extended, never scaled. -/
def wordN (w : Word) : Nat := (w.extractLsb' 16 16).toNat

/-- What R74 and R73 say of an opcode: the command it names, and which operand field that command uses. -/
inductive Shape where
  | plain (i : Instr)
  | withB (f : Bool → Instr)
  | withN (f : Nat → Instr)

/-- The opcode column of R74. -/
def opcodeShape (opc : BitVec 8) : Option Shape :=
  match opc.toNat with
  | 0x00 => some (.plain .nop)
  | 0x01 => some (.plain .lrelease)
  | 0x02 => some (.plain .jbind)
  | 0x03 => some (.plain .sbind)
  | 0x10 => some (.plain .jclk)
  | 0x11 => some (.withB .jtdi)
  | 0x12 => some (.withB .jtms)
  | 0x13 => some (.plain .jrdb)
  | 0x14 => some (.plain .jidle)
  | 0x15 => some (.plain .jsdr)
  | 0x16 => some (.plain .jsir)
  | 0x17 => some (.withN .jshift)
  | 0x18 => some (.withN .jsend)
  | 0x19 => some (.withB .jtrst)
  | 0x20 => some (.plain .jdetect)
  | 0x21 => some (.withN .jids)
  | 0x22 => some (.withN .jbypass)
  | 0x23 => some (.plain .jidchk)
  | 0x30 => some (.plain .slrst)
  | 0x31 => some (.plain .swake)
  | 0x32 => some (.plain .sj2s)
  | 0x33 => some (.plain .ss2j)
  | 0x34 => some (.plain .sidcode)
  | 0x35 => some (.plain .sprobe)
  | _ => none

/-- R71: the checks in its order, then the command. -/
def decode (w : Word) : Except Reject Instr :=
  match opcodeShape (wordOpc w) with
  | none => .error .undefinedOpcode
  | some shape =>
    if wordRsv w ≠ 0 then .error .reservedNonzero
    else match shape with
      | .plain i => if wordB w then .error .unusedB else if wordN w ≠ 0 then .error .unusedN else .ok i
      | .withB f => if wordN w ≠ 0 then .error .unusedN else .ok (f (wordB w))
      | .withN f => if wordB w then .error .unusedB else .ok (f (wordN w))

/-- The instruction the decoder reads from the `nbits` bits of `w`, every bit above them 0. A command is one 32-bit
word: a number that does not fit 32 bits is no command word. -/
def decodeTableWord (nbits w : Nat) : Option Instr :=
  let v := w % 2 ^ nbits
  if v < 2 ^ 32 then (decode (BitVec.ofNat 32 v)).toOption else none

/-! ### The encoder -/

/-- The command word `(n << 16) | (b << 8) | OPC` of R78; `RSV` stays 0 (R70). -/
def commandWord (opc : BitVec 8) (b : Bool) (n : Nat) : Word :=
  BitVec.ofNat 32 n <<< 16 ||| (BitVec.ofBool b).setWidth 32 <<< 8 ||| opc.setWidth 32

/-- The opcode of each command (R74). -/
def Instr.opcode : Instr → BitVec 8
  | .nop => 0x00#8
  | .lrelease => 0x01#8
  | .jbind => 0x02#8
  | .sbind => 0x03#8
  | .jclk => 0x10#8
  | .jtdi _ => 0x11#8
  | .jtms _ => 0x12#8
  | .jrdb => 0x13#8
  | .jidle => 0x14#8
  | .jsdr => 0x15#8
  | .jsir => 0x16#8
  | .jshift _ => 0x17#8
  | .jsend _ => 0x18#8
  | .jtrst _ => 0x19#8
  | .jdetect => 0x20#8
  | .jids _ => 0x21#8
  | .jbypass _ => 0x22#8
  | .jidchk => 0x23#8
  | .slrst => 0x30#8
  | .swake => 0x31#8
  | .sj2s => 0x32#8
  | .ss2j => 0x33#8
  | .sidcode => 0x34#8
  | .sprobe => 0x35#8

/-- The level operand of a command, 0 where R73 says it uses none. -/
def Instr.fieldB : Instr → Bool
  | .jtdi b => b
  | .jtms b => b
  | .jtrst b => b
  | _ => false

/-- The count operand of a command, 0 where R73 says it uses none. -/
def Instr.fieldN : Instr → Nat
  | .jshift n => n
  | .jsend n => n
  | .jids n => n
  | .jbypass n => n
  | _ => 0

/-- The commands that use `B` (R73). -/
def Instr.usesB : Instr → Bool
  | .jtdi _ => true
  | .jtms _ => true
  | .jtrst _ => true
  | _ => false

/-- The commands that use `N` (R73). -/
def Instr.usesN : Instr → Bool
  | .jshift _ => true
  | .jsend _ => true
  | .jids _ => true
  | .jbypass _ => true
  | _ => false

/-- The command word of a well-formed command (R70, R74). -/
def encode (i : Instr) : Word := commandWord i.opcode i.fieldB i.fieldN

/-! ### The rows of R74 -/

/-- One row of R74: a word `w` selects it exactly when `w &&& mask = pat`. -/
structure OpcodeRow where
  mnemonic : String
  pat : Word
  mask : Word
deriving DecidableEq, Repr

/-- The masks of R74: no operand, `B`, `N`. -/
def maskPlain : Word := 0xFFFFFFFF#32

/-- Mask of the rows with `B` (R74). -/
def maskB : Word := 0xFFFFFEFF#32

/-- Mask of the rows with `N` (R74). -/
def maskN : Word := 0x0000FFFF#32

/-- The table of R74, row by row. -/
def opcodeTable : List OpcodeRow :=
  [⟨"NOP", 0x00#32, maskPlain⟩, ⟨"LRELEASE", 0x01#32, maskPlain⟩, ⟨"JBIND", 0x02#32, maskPlain⟩,
   ⟨"SBIND", 0x03#32, maskPlain⟩, ⟨"JCLK", 0x10#32, maskPlain⟩, ⟨"JTDI", 0x11#32, maskB⟩,
   ⟨"JTMS", 0x12#32, maskB⟩, ⟨"JRDB", 0x13#32, maskPlain⟩, ⟨"JIDLE", 0x14#32, maskPlain⟩,
   ⟨"JSDR", 0x15#32, maskPlain⟩, ⟨"JSIR", 0x16#32, maskPlain⟩, ⟨"JSHIFT", 0x17#32, maskN⟩] ++
  [⟨"JSEND", 0x18#32, maskN⟩, ⟨"JTRST", 0x19#32, maskB⟩, ⟨"JDETECT", 0x20#32, maskPlain⟩,
   ⟨"JIDS", 0x21#32, maskN⟩, ⟨"JBYPASS", 0x22#32, maskN⟩, ⟨"JIDCHK", 0x23#32, maskPlain⟩,
   ⟨"SLRST", 0x30#32, maskPlain⟩, ⟨"SWAKE", 0x31#32, maskPlain⟩, ⟨"SJ2S", 0x32#32, maskPlain⟩,
   ⟨"SS2J", 0x33#32, maskPlain⟩, ⟨"SIDCODE", 0x34#32, maskPlain⟩, ⟨"SPROBE", 0x35#32, maskPlain⟩]

/-- The mnemonic of each command (R74). -/
def Instr.mnemonic : Instr → String
  | .nop => "NOP"
  | .lrelease => "LRELEASE"
  | .jbind => "JBIND"
  | .sbind => "SBIND"
  | .jclk => "JCLK"
  | .jtdi _ => "JTDI"
  | .jtms _ => "JTMS"
  | .jrdb => "JRDB"
  | .jidle => "JIDLE"
  | .jsdr => "JSDR"
  | .jsir => "JSIR"
  | .jshift _ => "JSHIFT"
  | .jsend _ => "JSEND"
  | .jtrst _ => "JTRST"
  | .jdetect => "JDETECT"
  | .jids _ => "JIDS"
  | .jbypass _ => "JBYPASS"
  | .jidchk => "JIDCHK"
  | .slrst => "SLRST"
  | .swake => "SWAKE"
  | .sj2s => "SJ2S"
  | .ss2j => "SS2J"
  | .sidcode => "SIDCODE"
  | .sprobe => "SPROBE"

end Sys2Proof
end

