-- ==== Sys2Proof/Machine/Lines.lean ====
section
/-! DEFINITION. The physical lines as the engine sees them (R35, `10_state.md`), the line events (R38) and the
type of a target oracle (R14, `00_scope.md`). -/

namespace Sys2Proof.Machine

/-- Direction of a line (R35). -/
inductive Dir where
  | input
  | output
deriving DecidableEq, Repr

/-- Pull mode of a line (R29, R35). -/
inductive Pull where
  | none
  | up
  | down
deriving DecidableEq, Repr

/-- The engine's record of one line (R35): `out` is driven when `dir` is `output` and only retained otherwise. -/
structure Line where
  dir : Dir
  pull : Pull
  out : Bool
deriving DecidableEq, Repr

/-- A line after reset: input, no pull, `out = 0` (R46). -/
def Line.atReset : Line := { dir := .input, pull := .none, out := false }

/-- A line event (R38), appended by the primitives of R14. `cfg` carries the level only when one was given. -/
inductive Event where
  | cfg (l : Nat) (dir : Dir) (lvl : Option Bool)
  | drive (l : Nat) (v : Bool)
  | sample (l : Nat) (b : Bool)
deriving DecidableEq, Repr

/-- A target oracle `Env` (R14): the answer to a `Sample` of a line, from the trace so far.
The trace is given NEWEST EVENT FIRST, as `State.hist` holds it (log 5). -/
abbrev Oracle := List Event → Nat → Bool

end Sys2Proof.Machine
end

