-- ==== Sys2Proof/Config.lean ====
section
/-! DEFINITION. The implementation parameters of R9 (`00_scope.md`) and the model's free values. An `opaque`
constant has no body: no proof can see its value, so a theorem holds whatever it is. -/

namespace Sys2Proof

/-- Which register `JDETECT` counts in (R131, `42_jtag_chain.md`; C3). -/
inductive DetectMode where
  | irBits
  | bypassCount
deriving DecidableEq, Repr

/-- The parameters of R9 on which a rule depends. They are fixed for an implementation; `State.params` holds
them so that every statement covers every implementation, and no step changes them (log 4). -/
structure Params where
  numLines : Nat
  maxDevices : Nat
  irFloodBits : Nat
  irZeroBits : Nat
  detectMode : DetectMode
  lineResetCycles : Nat
  swdIdleCycles : Nat
deriving DecidableEq, Repr

/-- The constraint column of R9. -/
abbrev Params.Wf (p : Params) : Prop :=
  4 ≤ p.numLines ∧ p.numLines ≤ 32 ∧ 1 ≤ p.maxDevices ∧ p.maxDevices ≤ 128 ∧ p.maxDevices ≤ p.irFloodBits ∧
  p.maxDevices ≤ p.irZeroBits ∧ 52 ≤ p.lineResetCycles ∧ 2 ≤ p.swdIdleCycles

/-- `NUM_LINES` is OPEN (R9, U6): this free value is how many lines there are above the four the constraint asks for. -/
opaque Config.extraLines : Fin 29

/-- `NUM_LINES`, some number in `4 .. 32` (R9, D7). -/
def Config.numLines : Nat := Config.extraLines.val + 4

/-- The parameters of the engine: the values of R9, and the free `NUM_LINES`. -/
def Config.params : Params where
  numLines := Config.numLines
  maxDevices := 32
  irFloodBits := 128
  irZeroBits := 128
  detectMode := .irBits
  lineResetCycles := 52
  swdIdleCycles := 2

/-- `DELAY_US` is OPEN (R9, U5). No rule depends on it and no definition reads it (R6, R212; log 7). -/
opaque Config.delayUs : Nat

/-- `REG_BASE` is OPEN (R9, U7). The model addresses registers by word index (R58); no definition reads it (log 7). -/
opaque Config.regBase : Nat

/-- The target, a free value (R14, R45, U1, U14): for each number of resets taken so far, some oracle.
Within one run from reset it is R14's `Env(HIST, line)`; after another reset it may be another one, because the
target's state is then unknown (R202; log 1). -/
opaque Config.env (resets : Nat) : Machine.Oracle

end Sys2Proof
end

