-- ==== Sys2Proof/Machine/State.lean ====
section
/-! DEFINITION. The machine's state (R20, `10_state.md`), the outcomes a step may stop with, and the state after
reset (R46). -/

namespace Sys2Proof.Machine

/-- Why the machine stops. The engine has no such outcome: every command ends in `Finish` (R180), an illegal word
included (R182), so this type has no constructor and no step faults. -/
inductive Fault
deriving DecidableEq, Repr

/-- Why the model has no answer. -/
inductive Refusal where
  /-- Raised by an arm of `exec` whose instruction has no meaning yet; no arm of this model raises it. Safe: the run stops. -/
  | notModelled (mnemonic : String)
deriving DecidableEq, Repr

/-- Completion codes (R181, `60_exceptions.md`). Codes 6 to 15 are never produced (U10), so the type has none. -/
inductive Code where
  | eNone
  | eIllegal
  | eUnbound
  | eRange
  | eBind
  | eSwdAck
deriving DecidableEq, Repr

/-- The roles a line can be bound to (R17, R37). -/
inductive Role where
  | tck
  | tms
  | tdi
  | tdo
  | trst
  | swclk
  | swdio
deriving DecidableEq, Repr

/-- The idle or executing indication of R20; idle between the host's accesses (R57). -/
inductive Activity where
  | idle
  | executing
deriving DecidableEq, Repr

/-- One thing the outside world does to the engine: the two register operations of R52 (`20_memory.md`) and the
reset input of R200 (`70_reset_and_hazards.md`). -/
inductive HostOp where
  | read (idx : RegIndex)
  | write (idx : RegIndex) (v : Word)
  | reset
deriving DecidableEq, Repr

/-- The state of the engine (R20), then the model's own fields. -/
structure State where
  /-- Model's own: the implementation parameters of R9; no step changes them (log 4). -/
  params : Params
  /-- `CMD` (R23). -/
  cmd : Word
  /-- `STATUS.ERR` (R24, R181). -/
  err : Code
  /-- `STATUS.VALID` (R24). -/
  valid : Bool
  /-- `STATUS.ECHO_MATCH` (R24). -/
  echoMatch : Bool
  /-- `STATUS.SWD_OK` (R24). -/
  swdOk : Bool
  /-- `STATUS.SWD_PARITY` (R24, R161). -/
  swdParity : Bool
  /-- `STATUS.SWD_ACK` (R24, R160). -/
  swdAck : BitVec 3
  /-- `STATUS.SBIT` (R24). -/
  sbit : Bool
  /-- `STATUS.JBOUND` (R24). -/
  jbound : Bool
  /-- `STATUS.SBOUND` (R24). -/
  sbound : Bool
  /-- `STATUS.TAP_SHADOW` (R24, R40): bit `s` set means the target may be in state number `s` of R41. -/
  tapShadow : BitVec 16
  /-- `PAT` (R25). -/
  pat : Word
  /-- `ACC` (R26). -/
  acc : Word
  /-- `CNT` (R27). -/
  cnt : Word
  /-- `CAND` (R28). -/
  cand : Word
  /-- `LINECFG` (R29). -/
  linecfg : Word
  /-- `PINMAP_JTAG` (R30). -/
  pinmapJtag : Word
  /-- `PINMAP_AUX` (R31). -/
  pinmapAux : Word
  /-- `SWD_IDCODE` (R32). -/
  swdIdcode : Word
  /-- `IDBUF[0 .. MAX_DEVICES-1]` (R33), word `k` at position `k`. -/
  idbuf : List Word
  /-- `LINES[0 .. NUM_LINES-1]` (R35), line `l` at position `l`. -/
  lines : List Line
  /-- `HIST` (R38), NEWEST EVENT FIRST (log 5); `State.trace` gives it in the order of the rule. -/
  hist : List Event
  /-- The idle or executing indication (R20). -/
  activity : Activity
  /-- Model's own: resets taken so far, the index of the free oracle (log 1). -/
  resets : Nat
  /-- Model's own: what the outside world does next, oldest first (log 2). -/
  inputs : List HostOp
  /-- Model's own: the values `RegRead` has returned to the host, newest first (log 3). -/
  replies : List Word
deriving DecidableEq, Repr

/-- The engine after reset for given parameters (R46; R201, R202 in `70_reset_and_hazards.md`). -/
def State.resetWith (p : Params) : State where
  params := p
  cmd := 0#32
  err := .eNone
  valid := false
  echoMatch := false
  swdOk := false
  swdParity := false
  swdAck := 0#3
  sbit := false
  jbound := false
  sbound := false
  tapShadow := 0xFFFF#16
  pat := 0#32
  acc := 0#32
  cnt := 0#32
  cand := 0#32
  linecfg := 0#32
  pinmapJtag := 0#32
  pinmapAux := 0#32
  swdIdcode := 0#32
  idbuf := List.replicate p.maxDevices 0#32
  lines := List.replicate p.numLines Line.atReset
  hist := []
  activity := .idle
  resets := 0
  inputs := []
  replies := []

/-- The machine right after its first reset (R46). -/
def State.reset : State := State.resetWith Config.params

/-- `HIST` in the order of R38: oldest event first. -/
def State.trace (s : State) : List Event := s.hist.reverse

end Sys2Proof.Machine
end

