-- ==== Sys2Proof/Machine/Operands.lean ====
section
/-! DEFINITION. Operands: register fields (R28 to R31, R37 in `10_state.md`), the legal values a write stores, and
the bit orders of R12 (`00_scope.md`) and R54 (`20_memory.md`). -/

namespace Sys2Proof.Machine

/-! ### Bit orders -/

/-- R12: bit `i` of the result is bit `31 - i` of `x`. -/
def bitrev32 (x : Word) : Word := x.reverse

/-- R12: `lsbits(v, n) = [v[0], v[1], ..., v[n-1]]`. -/
def lsbits (v : BitVec w) (n : Nat) : List Bool := (List.range n).map v.getLsbD

/-- The number whose bit `i` is the `i`-th element of the list, the first bit being bit 0. -/
def natOfBits : List Bool → Nat
  | [] => 0
  | b :: bs => b.toNat + 2 * natOfBits bs

/-- Received bits, first one in bit 0: "32-bit little-bit-first" (R32, R54, R158). -/
def firstBitLow (w : Nat) (bits : List Bool) : BitVec w := BitVec.ofNat w (natOfBits bits)

/-- One step of the MSB-first accumulation of R105: `((acc << 1) | b) mod 2^32`. -/
def shiftIn (acc : Word) (b : Bool) : Word := (acc <<< 1) ||| (BitVec.ofBool b).setWidth 32

/-! ### Legal values -/

/-- The bits of `CAND` that name a line; the others read 0 (R28). -/
def candMask (p : Params) : Word := BitVec.ofNat 32 (2 ^ p.numLines - 1)

/-- R28: what a write to `CAND` stores. -/
def legalCand (p : Params) (v : Word) : Word := v &&& candMask p

/-- R29: what a write to `LINECFG` stores: bits 1:0, and 0 for 3. -/
def legalLinecfg (v : Word) : Word := if v &&& 3#32 = 3#32 then 0#32 else v &&& 3#32

/-- The fields of `PINMAP_JTAG` (R30). -/
def pinmapJtagMask : Word := 0x1F1F1F1F#32

/-- R30: what a write to `PINMAP_JTAG` stores. -/
def legalPinmapJtag (v : Word) : Word := v &&& pinmapJtagMask

/-- The fields of `PINMAP_AUX` (R31). -/
def pinmapAuxMask : Word := 0x001F1F9F#32

/-- R31: what a write to `PINMAP_AUX` stores. -/
def legalPinmapAux (v : Word) : Word := v &&& pinmapAuxMask

/-! ### Fields -/

/-- The 5-bit line id at bits `lo+4 : lo`. -/
def lineField (w : Word) (lo : Nat) : Nat := (w.extractLsb' lo 5).toNat

/-- R37: the line a role is bound to. -/
def State.role (s : State) : Role → Nat
  | .tck => lineField s.pinmapJtag 0
  | .tms => lineField s.pinmapJtag 8
  | .tdi => lineField s.pinmapJtag 16
  | .tdo => lineField s.pinmapJtag 24
  | .trst => lineField s.pinmapAux 0
  | .swclk => lineField s.pinmapAux 8
  | .swdio => lineField s.pinmapAux 16

/-- `PINMAP_AUX.TRST_EN` (R31). -/
def State.trstEn (s : State) : Bool := s.pinmapAux.getLsbD 7

/-- `LINECFG.PULL` (R29). No reachable state holds 3 (R29); it would read as no pull (log 10). -/
def State.pull (s : State) : Pull :=
  match (s.linecfg.extractLsb' 0 2).toNat with
  | 1 => .up
  | 2 => .down
  | _ => .none

/-- Line `l` is an addressable candidate line: `l < NUM_LINES` and `CAND[l] = 1` (R28, R36, R92). -/
def State.owns (s : State) (l : Nat) : Bool := decide (l < s.params.numLines) && s.cand.getLsbD l

/-- The candidate lines in ascending order, as the loops of R91 to R93 visit them. `CAND` has 32 bits, so no
line at or above 32 has its bit set. -/
def State.candLines (s : State) : List Nat := (List.range 32).filter (fun l => s.cand.getLsbD l && decide (l < s.params.numLines))

/-- `LINES[l]` (R35). Beyond the line file, where no rule reads, it is a line at reset (log 10). -/
def State.line (s : State) (l : Nat) : Line := s.lines.getD l Line.atReset

/-- The list `L` of R92: the bound JTAG roles' lines. -/
def State.jtagLines (s : State) : List Nat :=
  [s.role .tck, s.role .tms, s.role .tdi, s.role .tdo] ++ if s.trstEn then [s.role .trst] else []

/-- The lines of the SWD roles (R93). -/
def State.swdLines (s : State) : List Nat := [s.role .swclk, s.role .swdio]

end Sys2Proof.Machine
end

