-- ==== Sys2Proof/Machine/Flags.lean ====
section
/-! DEFINITION. `STATUS` (R24, `10_state.md`): its word, the TAP states of R41 and the shadow update of R42. -/

namespace Sys2Proof.Machine

/-! ### The word -/

/-- The 4-bit code in `STATUS.ERR` (R181, `60_exceptions.md`). -/
def Code.bits : Code → BitVec 4
  | .eNone => 0
  | .eIllegal => 1
  | .eUnbound => 2
  | .eRange => 3
  | .eBind => 4
  | .eSwdAck => 5

/-- R24: the word a `RegRead` of `STATUS` returns, from bit 31 down: `TAP_SHADOW`, 15:14 reserved, `SBOUND`,
`JBOUND`, `SBIT`, `SWD_ACK`, `SWD_PARITY`, `SWD_OK`, `ECHO_MATCH`, `VALID`, `ERR`. -/
def State.statusWord (s : State) : Word :=
  s.tapShadow ++ (0#2 ++ (BitVec.ofBool s.sbound ++ (BitVec.ofBool s.jbound ++ (BitVec.ofBool s.sbit ++
    (s.swdAck ++ (BitVec.ofBool s.swdParity ++ (BitVec.ofBool s.swdOk ++ (BitVec.ofBool s.echoMatch ++
      (BitVec.ofBool s.valid ++ s.err.bits)))))))))

/-! ### The TAP shadow -/

/-- The sixteen TAP states of R41. -/
inductive TapState where
  | testLogicReset
  | runTestIdle
  | selectDrScan
  | captureDr
  | shiftDr
  | exit1Dr
  | pauseDr
  | exit2Dr
  | updateDr
  | selectIrScan
  | captureIr
  | shiftIr
  | exit1Ir
  | pauseIr
  | exit2Ir
  | updateIr
deriving DecidableEq, Repr

/-- The states in the order of their numbers (R41). -/
def allTapStates : List TapState :=
  [.testLogicReset, .runTestIdle, .selectDrScan, .captureDr, .shiftDr, .exit1Dr, .pauseDr, .exit2Dr,
   .updateDr, .selectIrScan, .captureIr, .shiftIr, .exit1Ir, .pauseIr, .exit2Ir, .updateIr]

/-- The shadow number `s` of R41. -/
def TapState.number : TapState → Nat
  | .testLogicReset => 0
  | .runTestIdle => 1
  | .selectDrScan => 2
  | .captureDr => 3
  | .shiftDr => 4
  | .exit1Dr => 5
  | .pauseDr => 6
  | .exit2Dr => 7
  | .updateDr => 8
  | .selectIrScan => 9
  | .captureIr => 10
  | .shiftIr => 11
  | .exit1Ir => 12
  | .pauseIr => 13
  | .exit2Ir => 14
  | .updateIr => 15

/-- R41: the state after a rising TCK edge with TMS at the given level. -/
def TapState.next : TapState → Bool → TapState
  | .testLogicReset, false => .runTestIdle
  | .testLogicReset, true => .testLogicReset
  | .runTestIdle, false => .runTestIdle
  | .runTestIdle, true => .selectDrScan
  | .selectDrScan, false => .captureDr
  | .selectDrScan, true => .selectIrScan
  | .captureDr, false => .shiftDr
  | .captureDr, true => .exit1Dr
  | .shiftDr, false => .shiftDr
  | .shiftDr, true => .exit1Dr
  | .exit1Dr, false => .pauseDr
  | .exit1Dr, true => .updateDr
  | .pauseDr, false => .pauseDr
  | .pauseDr, true => .exit2Dr
  | .exit2Dr, false => .shiftDr
  | .exit2Dr, true => .updateDr
  | .updateDr, false => .runTestIdle
  | .updateDr, true => .selectDrScan
  | .selectIrScan, false => .captureIr
  | .selectIrScan, true => .testLogicReset
  | .captureIr, false => .shiftIr
  | .captureIr, true => .exit1Ir
  | .shiftIr, false => .shiftIr
  | .shiftIr, true => .exit1Ir
  | .exit1Ir, false => .pauseIr
  | .exit1Ir, true => .updateIr
  | .pauseIr, false => .pauseIr
  | .pauseIr, true => .exit2Ir
  | .exit2Ir, false => .shiftIr
  | .exit2Ir, true => .updateIr
  | .updateIr, false => .runTestIdle
  | .updateIr, true => .selectDrScan

/-- The one-element shadow set (R40). -/
def tapBit (t : TapState) : BitVec 16 := BitVec.twoPow 16 t.number

/-- `{ next(s, t) | s in S }` of R42, as masks. -/
def shadowNext (t : Bool) (m : BitVec 16) : BitVec 16 :=
  allTapStates.foldl (fun acc q => if m.getLsbD q.number then acc ||| tapBit (q.next t) else acc) 0#16

/-- R43: TRST is bound and driven low, which holds a compliant TAP in Test-Logic-Reset. -/
def State.trstAsserted (s : State) : Bool := s.trstEn && !(s.line (s.role .trst)).out

/-- R42: the shadow after a rising edge at which TMS was at level `t`. -/
def State.pulseShadow (s : State) (t : Bool) : BitVec 16 :=
  if s.trstAsserted then tapBit .testLogicReset else shadowNext t s.tapShadow

end Sys2Proof.Machine
end

