-- ==== Sys2Proof/Machine/Ops.lean ====
section
/-! DEFINITION. The line primitives of R14 (`00_scope.md`), `Finish` and `raise` of R15, which are the engine's only
form of exception, and the register space of R51 and R52 (`20_memory.md`). -/

namespace Sys2Proof.Machine

/-! ### Line primitives (R14) -/

/-- `Cfg(l, dir, lvl)`: direction, the configured pull, the level when one is given; one event. -/
def cfg (l : Nat) (dir : Dir) (lvl : Option Bool) (s : State) : State :=
  { s with
    lines := s.lines.set l { dir := dir, pull := s.pull, out := lvl.getD (s.line l).out }
    hist := .cfg l dir lvl :: s.hist }

/-- `Drive(R, v)`: the level of the role's line; one event. -/
def drive (r : Role) (v : Bool) (s : State) : State :=
  { s with
    lines := s.lines.set (s.role r) { s.line (s.role r) with out := v }
    hist := .drive (s.role r) v :: s.hist }

/-- `Sample(R) -> b`: the oracle's answer, kept in `STATUS.SBIT`; one event. -/
def sample (env : Oracle) (r : Role) (s : State) : Bool × State :=
  let b := env s.hist (s.role r)
  (b, { s with sbit := b, hist := .sample (s.role r) b :: s.hist })

/-- `Delay()`: it changes no state and appends no event (R14; log 7). -/
def delay (s : State) : State := s

/-- The oracle a command of this run meets (R14; log 1). -/
def State.env (s : State) : Oracle := Config.env s.resets

/-! ### Completion (R15, R180) -/

/-- `Finish(code)`: `STATUS.ERR <- code`, and the engine is idle again. -/
def finish (code : Code) (s : State) : State := { s with err := code, activity := .idle }

/-- `raise Error(code)` (R15): `Finish` before anything else has changed. There is no trap entry, no saved state and
no return (R180, R190). -/
def raiseError (code : Code) (s : State) : State := finish code s

/-- R183: the command body runs only with JTAG bound; otherwise `E_UNBOUND` with no other effect (R116). -/
def whenJBound (body : State → State) (s : State) : State :=
  if s.jbound then body s else raiseError .eUnbound s

/-- R183: the command body runs only with SWD bound; otherwise `E_UNBOUND` with no other effect. -/
def whenSBound (body : State → State) (s : State) : State :=
  if s.sbound then body s else raiseError .eUnbound s

/-! ### The register space (R51, R52) -/

/-- `RegRead(idx)`: the value at a word index; reserved indexes read 0. -/
def regRead (idx : RegIndex) (s : State) : Word :=
  match idx.toNat with
  | 0x00 => s.cmd
  | 0x01 => s.statusWord
  | 0x02 => s.pat
  | 0x03 => s.acc
  | 0x04 => s.cnt
  | 0x05 => s.cand
  | 0x06 => s.linecfg
  | 0x07 => s.pinmapJtag
  | 0x08 => s.pinmapAux
  | 0x09 => s.swdIdcode
  | k => if 0x80 ≤ k ∧ k < 0x80 + s.params.maxDevices then s.idbuf.getD (k - 0x80) 0#32 else 0#32

/-- `RegWrite(idx, v)` to an index other than `CMD`: the legal value is stored and the bound flags are cleared as
R28 to R31 say; a read-only or reserved index is unchanged (R52). -/
def regWrite (idx : RegIndex) (v : Word) (s : State) : State :=
  match idx.toNat with
  | 0x02 => { s with pat := v }
  | 0x05 => { s with cand := legalCand s.params v, jbound := false, sbound := false }
  | 0x06 => { s with linecfg := legalLinecfg v }
  | 0x07 => { s with pinmapJtag := legalPinmapJtag v, jbound := false }
  | 0x08 => { s with pinmapAux := legalPinmapAux v, jbound := false, sbound := false }
  | _ => s

/-- The start of a command (R71): the word is stored in `CMD`, whatever it is (R23). -/
def storeCommand (v : Word) (s : State) : State := { s with cmd := v, activity := .executing }

/-- Reset (R200 to R202): every piece of engine state at its value of R46, at once, with no event. The parameters,
the accesses still to come and the values the host already has are not engine state (log 6). -/
def takeReset (s : State) : State :=
  { State.resetWith s.params with resets := s.resets + 1, inputs := s.inputs, replies := s.replies }

end Sys2Proof.Machine
end

