-- ==== Sys2Proof/Machine/Bus.lean ====
section
/-! DEFINITION. What one host access does (R52, R56 in `20_memory.md`; R71 in `30_encoding.md`), up to the execution of
a command: the step runs the command this answers. -/

namespace Sys2Proof.Machine

/-- A write to `CMD` (R71): the word is stored, then decoded; an illegal word finishes `E_ILLEGAL` (R182), a legal one
is the command to execute. -/
def writeCommand (v : Word) (s : State) : State × Option Instr :=
  match decode v with
  | .ok i => (storeCommand v s, some i)
  | .error _ => (raiseError .eIllegal (storeCommand v s), none)

/-- One input (R52, R200). A read's value goes back to the host (log 3). -/
def serveOp (op : HostOp) (s : State) : State × Option Instr :=
  match op with
  | .read idx => ({ s with replies := regRead idx s :: s.replies }, none)
  | .write idx v => if idx = 0x00#8 then writeCommand v s else (regWrite idx v s, none)
  | .reset => (takeReset s, none)

/-- The next input, if there is one, and the command it starts. With no input the engine stays idle (R22; log 2). -/
def serve (s : State) : State × Option Instr :=
  match s.inputs with
  | [] => (s, none)
  | op :: rest => serveOp op { s with inputs := rest }

end Sys2Proof.Machine
end

