-- ==== Sys2Proof/Machine/Jtag.lean ====
section
/-! DEFINITION. The JTAG Bit Engine of `41_jtag_bit_engine.md`: the building blocks R100 to R105 and the commands
R106 to R115. Each command's body takes the target oracle; the meaning gives it the run's own (log 1). -/

namespace Sys2Proof.Machine

/-! ### Building blocks -/

/-- `Pulse()` (R100): TCK high, sample TDO, TCK low; the shadow moves by the TMS level at the rising edge (R42). -/
def pulse (env : Oracle) (s : State) : Bool × State :=
  let t := (s.line (s.role .tms)).out
  let r := sample env .tdo (delay (drive .tck true s))
  let s := delay (drive .tck false r.2)
  (r.1, { s with tapShadow := s.pulseShadow t })

/-- `repeat n times: Pulse()`, the samples discarded. -/
def pulses (env : Oracle) : Nat → State → State
  | 0, s => s
  | n + 1, s => pulses env n (pulse env s).2

/-- `TmsSeq` (R101). -/
def tmsSeq (env : Oracle) : List Bool → State → State
  | [], s => s
  | t :: ts, s => tmsSeq env ts (pulse env (drive .tms t s)).2

/-- `RestoreIdle()` (R102). -/
def restoreIdle (env : Oracle) (s : State) : State := tmsSeq env [true, true, true, true, true, false, false] s

/-- `EnterShiftDR()` (R103). -/
def enterShiftDr (env : Oracle) (s : State) : State := tmsSeq env [true, false, false] s

/-- `EnterShiftIR()` (R104). -/
def enterShiftIr (env : Oracle) (s : State) : State := tmsSeq env [true, true, false, false] s

/-- `TmsSeq([1, 0])`: Exit1-xR, Update-xR, Run-Test/Idle (R114, R130, R133). -/
def updateToIdle (env : Oracle) (s : State) : State := tmsSeq env [true, false] s

/-- Exit-on-last-bit (R105): TMS goes high before the last bit. -/
def driveExit (last : Bool) (s : State) : State := if last then drive .tms true s else s

/-- The loop of `ShiftArray` (R105) with `n` bits left, `q` the bits still to send. -/
def shiftLoop (env : Oracle) : Nat → Word → Word → State → Word × State
  | 0, _, acc, s => (acc, s)
  | n + 1, q, acc, s =>
    let r := pulse env (drive .tdi (q.getLsbD 0) (driveExit (n == 0) s))
    shiftLoop env n (q >>> 1) (shiftIn acc r.1) r.2

/-- `ShiftArray(p, n) -> acc` (R105). -/
def shiftArray (env : Oracle) (p : Word) (n : Nat) (s : State) : Word × State := shiftLoop env n p 0#32 s

/-! ### Commands -/

/-- R106 -/
def jclkBody (env : Oracle) (s : State) : State := finish .eNone (pulse env s).2

/-- R107 -/
def jtdiBody (b : Bool) (s : State) : State := finish .eNone (drive .tdi b s)

/-- R108 -/
def jtmsBody (b : Bool) (s : State) : State := finish .eNone (drive .tms b s)

/-- R109 -/
def jrdbBody (env : Oracle) (s : State) : State := finish .eNone (sample env .tdo s).2

/-- R110 -/
def jidleBody (env : Oracle) (s : State) : State := finish .eNone (restoreIdle env s)

/-- R111 -/
def jsdrBody (env : Oracle) (s : State) : State := finish .eNone (enterShiftDr env s)

/-- R112 -/
def jsirBody (env : Oracle) (s : State) : State := finish .eNone (enterShiftIr env s)

/-- R113 -/
def jshiftBody (env : Oracle) (n : Nat) (s : State) : State :=
  let r := shiftArray env s.pat n s
  finish .eNone { r.2 with acc := r.1 }

/-- R114: `E_RANGE` for a count of 0 (D16). -/
def jsendBody (env : Oracle) (n : Nat) (s : State) : State :=
  if n = 0 then raiseError .eRange s
  else
    let s := enterShiftDr env s
    let r := shiftArray env s.pat n s
    finish .eNone (updateToIdle env { r.2 with acc := r.1 })

/-- R115; the shadow goes to Test-Logic-Reset when TRST is asserted (R43). -/
def jtrstBody (b : Bool) (s : State) : State :=
  if s.trstEn then
    let s := drive .trst b s
    finish .eNone (if b then s else { s with tapShadow := tapBit .testLogicReset })
  else raiseError .eUnbound s

/-- `JCLK` (R106). -/
def execJclk (s : State) : Host.Outcome State Fault Refusal := .next (whenJBound (jclkBody s.env) s)

/-- `JTDI b` (R107). -/
def execJtdi (b : Bool) (s : State) : Host.Outcome State Fault Refusal := .next (whenJBound (jtdiBody b) s)

/-- `JTMS b` (R108). -/
def execJtms (b : Bool) (s : State) : Host.Outcome State Fault Refusal := .next (whenJBound (jtmsBody b) s)

/-- `JRDB` (R109). -/
def execJrdb (s : State) : Host.Outcome State Fault Refusal := .next (whenJBound (jrdbBody s.env) s)

/-- `JIDLE` (R110). -/
def execJidle (s : State) : Host.Outcome State Fault Refusal := .next (whenJBound (jidleBody s.env) s)

/-- `JSDR` (R111). -/
def execJsdr (s : State) : Host.Outcome State Fault Refusal := .next (whenJBound (jsdrBody s.env) s)

/-- `JSIR` (R112). -/
def execJsir (s : State) : Host.Outcome State Fault Refusal := .next (whenJBound (jsirBody s.env) s)

/-- `JSHIFT n` (R113). -/
def execJshift (n : Nat) (s : State) : Host.Outcome State Fault Refusal := .next (whenJBound (jshiftBody s.env n) s)

/-- `JSEND n` (R114). -/
def execJsend (n : Nat) (s : State) : Host.Outcome State Fault Refusal := .next (whenJBound (jsendBody s.env n) s)

/-- `JTRST b` (R115): it needs `JBOUND` and `TRST_EN` (R183). -/
def execJtrst (b : Bool) (s : State) : Host.Outcome State Fault Refusal := .next (whenJBound (jtrstBody b) s)

end Sys2Proof.Machine
end

