-- ==== Sys2Proof/Machine/Chain.lean ====
section
/-! DEFINITION. The JTAG Chain Prober of `42_jtag_chain.md`: `JDETECT`, `JIDS`, `JBYPASS`, `JIDCHK`. -/

namespace Sys2Proof.Machine

/-- The all-ones fill of IR (R130, R133): `n` pulses, TMS going high before the last one when `exitLast` says so. -/
def flood (env : Oracle) (exitLast : Bool) : Nat → State → State
  | 0, s => s
  | n + 1, s => flood env exitLast n (pulse env (driveExit (exitLast && n == 0) s)).2

/-- Phase 3 of R130: at most `n` pulses, stopping at the first 1; the count of zeros so far is `c`. -/
def countZeros (env : Oracle) : Nat → Nat → State → Nat × State
  | 0, c, s => (c, s)
  | n + 1, c, s =>
    let r := pulse env s
    if r.1 then (c, r.2) else countZeros env n (c + 1) r.2

/-- Phase 1 of R130, and in mode `BYPASS_COUNT` the way from the IR to the BYPASS registers (R131). -/
def detectFlood (env : Oracle) (s : State) : State :=
  let s := drive .tdi true (enterShiftIr env s)
  match s.params.detectMode with
  | .irBits => flood env false s.params.irFloodBits s
  | .bypassCount => enterShiftDr env (updateToIdle env (flood env true s.params.irFloodBits s))

/-- The value `JDETECT` leaves in `CNT`: 0 when the count exceeds the maximum (R130). -/
def detectCount (p : Params) (c : Nat) : Word := if c > p.maxDevices then 0#32 else BitVec.ofNat 32 c

/-- R130 -/
def jdetectBody (env : Oracle) (s : State) : State :=
  let s := detectFlood env (restoreIdle env s)
  let s := pulses env s.params.irZeroBits (drive .tdi false s)
  let r := countZeros env (s.params.maxDevices + 1) 0 (drive .tdi true s)
  let s := restoreIdle env r.2
  finish .eNone { s with cnt := detectCount s.params r.1 }

/-- `repeat n times: w <- ((w << 1) | Pulse()) mod 2^32` (R132). -/
def pulseWord (env : Oracle) : Nat → Word → State → Word × State
  | 0, w, s => (w, s)
  | n + 1, w, s =>
    let r := pulse env s
    pulseWord env n (shiftIn w r.1) r.2

/-- The words `JIDS` reads: `n` times 32 pulses, each word bit-reversed (R132). -/
def readWords (env : Oracle) : Nat → State → List Word × State
  | 0, s => ([], s)
  | n + 1, s =>
    let r := pulseWord env 32 0#32 s
    let rest := readWords env n r.2
    (bitrev32 r.1 :: rest.1, rest.2)

/-- R132. The words land in `IDBUF` before the closing `RestoreIdle`; the host cannot see the order (R57; log 13). -/
def jidsBody (env : Oracle) (n : Nat) (s : State) : State :=
  if n > s.params.maxDevices then raiseError .eRange s
  else
    let s := drive .tdi true (enterShiftDr env (restoreIdle env s))
    let r := readWords env n s
    finish .eNone
      (restoreIdle env { r.2 with idbuf := r.1 ++ List.replicate (s.params.maxDevices - n) 0#32 })

/-- The walk of R133 that puts BYPASS in every IR and enters Shift-DR. -/
def enterBypass (env : Oracle) (s : State) : State :=
  let s := drive .tdi true (enterShiftIr env (restoreIdle env s))
  enterShiftDr env (updateToIdle env (flood env true s.params.irFloodBits s))

/-- R133 -/
def jbypassBody (env : Oracle) (n : Nat) (s : State) : State :=
  if n > s.params.maxDevices then raiseError .eRange s
  else
    let s := enterBypass env s
    let r := shiftArray env s.pat (32 + n) s
    let s := restoreIdle env r.2
    finish .eNone { s with acc := bitrev32 r.1, echoMatch := decide (bitrev32 r.1 = s.pat) }

/-- The 7-bit part-identity window `[7:1]` (R134, D15). -/
def partIdentity (id : Word) : Nat := (id.extractLsb' 1 7).toNat

/-- The 4-bit version/bank window `[11:8]` (R134, D15). -/
def versionBank (id : Word) : Nat := (id.extractLsb' 8 4).toNat

/-- The plausibility filter of R134; 127 is accepted (C4). -/
def plausibleId (id : Word) : Bool :=
  decide (partIdentity id ≠ 0 ∧ partIdentity id ≠ 1 ∧ versionBank id ≤ 8)

/-- R134: it touches no line and needs no binding. -/
def jidchkBody (s : State) : State := finish .eNone { s with valid := plausibleId s.pat }

/-- `JDETECT` (R130). -/
def execJdetect (s : State) : Host.Outcome State Fault Refusal := .next (whenJBound (jdetectBody s.env) s)

/-- `JIDS n` (R132). -/
def execJids (n : Nat) (s : State) : Host.Outcome State Fault Refusal := .next (whenJBound (jidsBody s.env n) s)

/-- `JBYPASS n` (R133). -/
def execJbypass (n : Nat) (s : State) : Host.Outcome State Fault Refusal := .next (whenJBound (jbypassBody s.env n) s)

/-- `JIDCHK` (R134). -/
def execJidchk (s : State) : Host.Outcome State Fault Refusal := .next (jidchkBody s)

end Sys2Proof.Machine
end

