-- ==== Sys2Proof/Machine/LineControl.lean ====
section
/-! DEFINITION. The line control commands of `40_lines_control.md`: `NOP`, `LRELEASE`, `JBIND`, `SBIND`. -/

namespace Sys2Proof.Machine

/-- `Cfg(l, IN)` for each line of a list, in order: the loop of R91 to R93. -/
def makeInputs : List Nat → State → State
  | [], s => s
  | l :: ls, s => makeInputs ls (cfg l .input none s)

/-- R92: the roles name pairwise distinct addressable candidate lines. -/
def State.jtagBindable (s : State) : Bool := decide s.jtagLines.Nodup && s.jtagLines.all s.owns

/-- R93: the same for the two SWD roles. -/
def State.swdBindable (s : State) : Bool := decide s.swdLines.Nodup && s.swdLines.all s.owns

/-- R92: `if PINMAP_AUX.TRST_EN = 1: Cfg(role(TRST), OUT, 1)`. -/
def bindTrst (s : State) : State := if s.trstEn then cfg (s.role .trst) .output (some true) s else s

/-- R92: the line events of a successful `JBIND`. -/
def bindJtagLines (s : State) : State :=
  let s := makeInputs s.candLines s
  let s := cfg (s.role .tck) .output (some false) s
  let s := cfg (s.role .tms) .output (some true) s
  let s := cfg (s.role .tdi) .output (some false) s
  bindTrst s

/-- R93: the line events of a successful `SBIND`. -/
def bindSwdLines (s : State) : State :=
  let s := makeInputs s.candLines s
  let s := cfg (s.role .swclk) .output (some false) s
  cfg (s.role .swdio) .output (some true) s

/-- R90 -/
def nopBody (s : State) : State := finish .eNone s

/-- R91 -/
def lreleaseBody (s : State) : State :=
  finish .eNone { makeInputs s.candLines s with jbound := false, sbound := false }

/-- R92 -/
def jbindBody (s : State) : State :=
  if s.jtagBindable then
    finish .eNone { bindJtagLines s with jbound := true, sbound := false, tapShadow := 0xFFFF#16 }
  else raiseError .eBind s

/-- R93 -/
def sbindBody (s : State) : State :=
  if s.swdBindable then
    finish .eNone { bindSwdLines s with sbound := true, jbound := false, tapShadow := 0xFFFF#16 }
  else raiseError .eBind s

/-- `NOP` (R90). -/
def execNop (s : State) : Host.Outcome State Fault Refusal := .next (nopBody s)

/-- `LRELEASE` (R91). -/
def execLrelease (s : State) : Host.Outcome State Fault Refusal := .next (lreleaseBody s)

/-- `JBIND` (R92). -/
def execJbind (s : State) : Host.Outcome State Fault Refusal := .next (jbindBody s)

/-- `SBIND` (R93). -/
def execSbind (s : State) : Host.Outcome State Fault Refusal := .next (sbindBody s)

end Sys2Proof.Machine
end

