-- ==== Sys2Proof/Machine/Swd.lean ====
section
/-! DEFINITION. The SWD Bit Engine and IDCODE Reader of `43_swd.md`: the building blocks R150 to R153 and the
commands R154 to R159. None of them updates the TAP shadow (R44). -/

namespace Sys2Proof.Machine

/-! ### Building blocks -/

/-- One SWCLK clock: high, low. It is the whole of `SwdTurn()` (R152). -/
def swdTurn (s : State) : State := delay (drive .swclk false (delay (drive .swclk true s)))

/-- `SwdWrite(b)` (R150): SWDIO while SWCLK is low, then one clock. -/
def swdWrite (b : Bool) (s : State) : State := swdTurn (drive .swdio b s)

/-- `SwdRead() -> b` (R151): sample SWDIO while SWCLK is low, then one clock. -/
def swdRead (env : Oracle) (s : State) : Bool × State :=
  let r := sample env .swdio s
  (r.1, swdTurn r.2)

/-- `SwdWrite` of each bit, in order. -/
def swdWrites : List Bool → State → State
  | [], s => s
  | b :: bs, s => swdWrites bs (swdWrite b s)

/-- `SendBits(v, n)` (R153): LSB first. -/
def sendBits (v : BitVec w) (n : Nat) (s : State) : State := swdWrites (lsbits v n) s

/-- `n` times `SwdRead()`, the bits in the order received. -/
def swdReads (env : Oracle) : Nat → State → List Bool × State
  | 0, s => ([], s)
  | n + 1, s =>
    let r := swdRead env s
    let rest := swdReads env n r.2
    (r.1 :: rest.1, rest.2)

/-! ### The constants of R153 -/

/-- `ALERT`, the 128-bit selection alert. -/
def swdAlert : BitVec 128 := 0x19BC0EA2E3DDAFE986852D956209F392#128

/-- `IDLE_GAP`. -/
def swdIdleGap : BitVec 4 := 0x0#4

/-- `ACTIVATION`. -/
def swdActivation : BitVec 8 := 0x1A#8

/-- `J2S`. -/
def swdJ2s : BitVec 16 := 0xE79E#16

/-- `S2J`. -/
def swdS2j : BitVec 16 := 0xE73C#16

/-- `HDR_RD_DP_IDCODE`. -/
def swdHeader : BitVec 8 := 0xA5#8

/-- ACK OK (R160). -/
def ackOk : BitVec 3 := 0b001#3

/-! ### Sequences -/

/-- `LineReset()` (R154). -/
def lineReset (s : State) : State := swdWrites (List.replicate s.params.lineResetCycles true) s

/-- `Wake()` (R155). -/
def wake (s : State) : State := sendBits swdActivation 8 (sendBits swdIdleGap 4 (sendBits swdAlert 128 s))

/-- A line reset and then the JTAG-to-SWD value (R156). -/
def switchToSwd (s : State) : State := sendBits swdJ2s 16 (lineReset s)

/-- A line reset and then the SWD-to-JTAG value (R157). -/
def switchToJtag (s : State) : State := sendBits swdS2j 16 (lineReset s)

/-- The idle cycles of R159: SWDIO low. -/
def idleCycles (s : State) : State := swdWrites (List.replicate s.params.swdIdleCycles false) s

/-- R158 up to the ACK: header, release of SWDIO, turnaround, three ACK bits (first one in bit 0). -/
def requestIdcode (env : Oracle) (s : State) : State :=
  let s := sendBits swdHeader 8 { s with swdOk := false }
  let r := swdReads env 3 (swdTurn (cfg (s.role .swdio) .input none s))
  { r.2 with swdAck := firstBitLow 3 r.1 }

/-- A turnaround, then SWDIO driven low again (R152, R158). -/
def closeTransaction (s : State) : State :=
  let s := swdTurn s
  cfg (s.role .swdio) .output (some false) s

/-- R158 after an ACK that is not OK: "aborts immediately". -/
def abortIdcode (s : State) : State :=
  finish .eSwdAck { closeTransaction s with swdIdcode := 0#32, swdParity := false }

/-- R158 after ACK OK: 32 data bits, the parity bit (not verified, R161), the closing turnaround. -/
def readIdcode (env : Oracle) (s : State) : State :=
  let d := swdReads env 32 s
  let p := swdRead env d.2
  finish .eNone { closeTransaction p.2 with swdIdcode := firstBitLow 32 d.1, swdParity := p.1, swdOk := true }

/-- `IdcodeTxn()` (R158); it finishes the command. -/
def idcodeTxn (env : Oracle) (s : State) : State :=
  let s := requestIdcode env s
  if s.swdAck = ackOk then readIdcode env s else abortIdcode s

/-! ### Commands -/

/-- R154 -/
def slrstBody (s : State) : State := finish .eNone (lineReset s)

/-- R155 -/
def swakeBody (s : State) : State := finish .eNone (wake s)

/-- R156 -/
def sj2sBody (s : State) : State := finish .eNone (switchToSwd s)

/-- R157 -/
def ss2jBody (s : State) : State := finish .eNone (switchToJtag s)

/-- R158 -/
def sidcodeBody (env : Oracle) (s : State) : State := idcodeTxn env s

/-- R159 -/
def sprobeBody (env : Oracle) (s : State) : State :=
  idcodeTxn env (idleCycles (lineReset (switchToSwd (wake (lineReset s)))))

/-- `SLRST` (R154). -/
def execSlrst (s : State) : Host.Outcome State Fault Refusal := .next (whenSBound slrstBody s)

/-- `SWAKE` (R155). -/
def execSwake (s : State) : Host.Outcome State Fault Refusal := .next (whenSBound swakeBody s)

/-- `SJ2S` (R156). -/
def execSj2s (s : State) : Host.Outcome State Fault Refusal := .next (whenSBound sj2sBody s)

/-- `SS2J` (R157). -/
def execSs2j (s : State) : Host.Outcome State Fault Refusal := .next (whenSBound ss2jBody s)

/-- `SIDCODE` (R158). -/
def execSidcode (s : State) : Host.Outcome State Fault Refusal := .next (whenSBound (sidcodeBody s.env) s)

/-- `SPROBE` (R159). -/
def execSprobe (s : State) : Host.Outcome State Fault Refusal := .next (whenSBound (sprobeBody s.env) s)

end Sys2Proof.Machine
end

