-- ==== Sys2Proof/Machine/Dispatch.lean ====
section
/-! DEFINITION. The one match from commands to meanings. -/

namespace Sys2Proof.Machine

/-- Executes a decoded command (R71): one arm per row of R74, each one call of that command's meaning. -/
def exec (i : Instr) (s : State) : Host.Outcome State Fault Refusal :=
  match i with
  | .nop => Sys2Proof.Machine.execNop s
  | .lrelease => Sys2Proof.Machine.execLrelease s
  | .jbind => Sys2Proof.Machine.execJbind s
  | .sbind => Sys2Proof.Machine.execSbind s
  | .jclk => Sys2Proof.Machine.execJclk s
  | .jtdi b => Sys2Proof.Machine.execJtdi b s
  | .jtms b => Sys2Proof.Machine.execJtms b s
  | .jrdb => Sys2Proof.Machine.execJrdb s
  | .jidle => Sys2Proof.Machine.execJidle s
  | .jsdr => Sys2Proof.Machine.execJsdr s
  | .jsir => Sys2Proof.Machine.execJsir s
  | .jshift n => Sys2Proof.Machine.execJshift n s
  | .jsend n => Sys2Proof.Machine.execJsend n s
  | .jtrst b => Sys2Proof.Machine.execJtrst b s
  | .jdetect => Sys2Proof.Machine.execJdetect s
  | .jids n => Sys2Proof.Machine.execJids n s
  | .jbypass n => Sys2Proof.Machine.execJbypass n s
  | .jidchk => Sys2Proof.Machine.execJidchk s
  | .slrst => Sys2Proof.Machine.execSlrst s
  | .swake => Sys2Proof.Machine.execSwake s
  | .sj2s => Sys2Proof.Machine.execSj2s s
  | .ss2j => Sys2Proof.Machine.execSs2j s
  | .sidcode => Sys2Proof.Machine.execSidcode s
  | .sprobe => Sys2Proof.Machine.execSprobe s

end Sys2Proof.Machine
end

