-- ==== Sys2Proof/Machine/Step.lean ====
section
/-! DEFINITION. One step: the next host access, with the command it starts run to completion (R57, `20_memory.md`). -/

namespace Sys2Proof.Machine

/-- One host access, complete (R57): serve it, and execute the command it wrote, if it wrote one. -/
def step (s : State) : Host.Outcome State Fault Refusal :=
  match serve s with
  | (t, none) => .next t
  | (t, some i) => exec i t

/-- `s` with the command word in front of the machine: the host's next access is the write of that word to `CMD`
(R71; log 9). -/
def State.withFetchWord (s : State) (nbits w : Nat) : State :=
  { s with inputs := .write 0x00#8 (BitVec.ofNat 32 (w % 2 ^ nbits)) :: s.inputs }

end Sys2Proof.Machine
end

