-- ==== Sys2Proof/Machine/Assembler.lean ====
section
/-! DEFINITION. Host programs (R78, R79 in `30_encoding.md`): the statements, the register accesses each one stands
for, and the reader of one line of text. Nothing here is part of the engine; a statement only makes inputs for it. -/

namespace Sys2Proof.Machine

/-! ### Registers and fields by name -/

/-- The register names of R51 (`20_memory.md`). -/
inductive Reg where
  | cmd
  | status
  | pat
  | acc
  | cnt
  | cand
  | linecfg
  | pinmapJtag
  | pinmapAux
  | swdIdcode
  | idbuf (k : Nat)
deriving DecidableEq, Repr

/-- The word index of a register (R51). -/
def Reg.index : Reg → RegIndex
  | .cmd => 0x00#8
  | .status => 0x01#8
  | .pat => 0x02#8
  | .acc => 0x03#8
  | .cnt => 0x04#8
  | .cand => 0x05#8
  | .linecfg => 0x06#8
  | .pinmapJtag => 0x07#8
  | .pinmapAux => 0x08#8
  | .swdIdcode => 0x09#8
  | .idbuf k => BitVec.ofNat 8 (0x80 + k)

/-- A field of a register: its lowest bit and its width. -/
structure Field where
  lo : Nat
  width : Nat
deriving DecidableEq, Repr

/-- The field names of each register (R24, R29 to R31 in `10_state.md`; R70). -/
def Reg.fields : Reg → List (String × Field)
  | .cmd => [("OPC", ⟨0, 8⟩), ("B", ⟨8, 1⟩), ("RSV", ⟨9, 7⟩), ("N", ⟨16, 16⟩)]
  | .status =>
    [("ERR", ⟨0, 4⟩), ("VALID", ⟨4, 1⟩), ("ECHO_MATCH", ⟨5, 1⟩), ("SWD_OK", ⟨6, 1⟩), ("SWD_PARITY", ⟨7, 1⟩),
     ("SWD_ACK", ⟨8, 3⟩), ("SBIT", ⟨11, 1⟩), ("JBOUND", ⟨12, 1⟩), ("SBOUND", ⟨13, 1⟩), ("TAP_SHADOW", ⟨16, 16⟩)]
  | .linecfg => [("PULL", ⟨0, 2⟩)]
  | .pinmapJtag => [("TCK", ⟨0, 5⟩), ("TMS", ⟨8, 5⟩), ("TDI", ⟨16, 5⟩), ("TDO", ⟨24, 5⟩)]
  | .pinmapAux => [("TRST", ⟨0, 5⟩), ("TRST_EN", ⟨7, 1⟩), ("SWCLK", ⟨8, 5⟩), ("SWDIO", ⟨16, 5⟩)]
  | _ => []

/-- `old` with field `f` replaced by the low bits of `v`: the modify part of a read-modify-write (R78). -/
def insertField (old : Word) (f : Field) (v : Nat) : Word :=
  (old &&& ~~~(BitVec.ofNat 32 ((2 ^ f.width - 1) * 2 ^ f.lo))) ||| BitVec.ofNat 32 (v % 2 ^ f.width * 2 ^ f.lo)

/-! ### Statements -/

/-- A statement of a host program: the forms of R78, then the pseudo-instructions of R79. -/
inductive Stmt where
  | command (i : Instr)
  | wr (r : Reg) (v : Word)
  | wrField (r : Reg) (f : Field) (v : Nat)
  | rd (r : Reg)
  | jexit
  | jupdidle
  | jbit (b : Bool)
  | wrpat (v : Word)
  | jtrstpulse
  | swdattempt
deriving DecidableEq, Repr

/-- R79: the statements a pseudo-instruction stands for; any other statement stands for itself. -/
def Stmt.expand : Stmt → List Stmt
  | .jexit => [.command (.jtms true), .command .jclk]
  | .jupdidle => [.command (.jtms true), .command .jclk, .command (.jtms false), .command .jclk]
  | .jbit b => [.command (.jtdi b), .command .jclk]
  | .wrpat v => [.wr .pat v]
  | .jtrstpulse => [.command (.jtrst false), .command (.jtrst true)]
  | .swdattempt => [.command .sbind, .command .sprobe]
  | st => [st]

/-- The host accesses of a basic statement (R78), issued in state `s`: a field write is a read and a write. -/
def Stmt.basicOps (s : State) : Stmt → List HostOp
  | .command i => [.write 0x00#8 (encode i)]
  | .wr r v => [.write r.index v]
  | .wrField r f v => [.read r.index, .write r.index (insertField (regRead r.index s) f v)]
  | .rd r => [.read r.index]
  | _ => []

/-- The host accesses of a statement. -/
def Stmt.ops (s : State) (st : Stmt) : List HostOp := st.expand.flatMap (Stmt.basicOps s)

/-- The host issues a statement: its accesses are what comes next. -/
def State.issue (st : Stmt) (s : State) : State := { s with inputs := s.inputs ++ st.ops s }

/-! ### Text (R78): one statement per line, `;` starts a comment -/

/-- The line up to its comment. -/
def dropComment : List Char → List Char
  | [] => []
  | c :: cs => if c = ';' then [] else c :: dropComment cs

/-- Splits at separators; empty pieces are dropped. `cur` is the piece being read, reversed. -/
def splitAt (sep : Char → Bool) : List Char → List Char → List (List Char)
  | [], cur => if cur.isEmpty then [] else [cur.reverse]
  | c :: cs, cur =>
    if sep c then (if cur.isEmpty then splitAt sep cs [] else cur.reverse :: splitAt sep cs [])
    else splitAt sep cs (c :: cur)

/-- The words of a statement: blanks and the comma of `WR` separate them (log 18). -/
def lineWords (cs : List Char) : List (List Char) := splitAt (fun c => c = ' ' || c = '\t' || c = ',') (dropComment cs) []

/-- The value of one digit in a base up to 16. -/
def digitValue (base : Nat) (c : Char) : Option Nat :=
  let n := c.toNat
  let v := if 48 ≤ n ∧ n ≤ 57 then n - 48 else if 97 ≤ n ∧ n ≤ 102 then n - 87
    else if 65 ≤ n ∧ n ≤ 70 then n - 55 else base
  if v < base then some v else none

/-- The number a list of digits denotes, after `acc`. -/
def digitsValue (base : Nat) : List Char → Nat → Option Nat
  | [], acc => some acc
  | c :: cs, acc => (digitValue base c).bind (fun d => digitsValue base cs (acc * base + d))

/-- A number: hexadecimal with the prefix `0x`, else decimal (R78). -/
def readNumber : List Char → Option Nat
  | [] => none
  | '0' :: 'x' :: [] => none
  | '0' :: 'x' :: cs => digitsValue 16 cs 0
  | cs => digitsValue 10 cs 0

/-- A number below a bound. -/
def readBelow (bound : Nat) (cs : List Char) : Option Nat :=
  (readNumber cs).bind (fun n => if n < bound then some n else none)

/-- A level operand: `0` or `1` (R78). -/
def readLevel (cs : List Char) : Option Bool := (readBelow 2 cs).map (· == 1)

/-- The entry of a table under a name. -/
def lookupName {α : Type} (table : List (String × α)) (name : List Char) : Option α :=
  (table.find? (fun e => e.1.toList == name)).map (·.2)

/-- The registers with a fixed name. -/
def regNames : List (String × Reg) :=
  [("CMD", .cmd), ("STATUS", .status), ("PAT", .pat), ("ACC", .acc), ("CNT", .cnt), ("CAND", .cand),
   ("LINECFG", .linecfg), ("PINMAP_JTAG", .pinmapJtag), ("PINMAP_AUX", .pinmapAux), ("SWD_IDCODE", .swdIdcode)]

/-- A register name; `IDBUF[k]` for `k` up to the last index `0xFF`. -/
def readReg (cs : List Char) : Option Reg :=
  match lookupName regNames cs with
  | some r => some r
  | none =>
    match splitAt (· = '[') cs [] with
    | [name, k] =>
      if name = "IDBUF".toList ∧ k.getLast? = some ']' then (readBelow 128 k.dropLast).map Reg.idbuf else none
    | _ => none

/-- Statements without an operand. -/
def plainStatements : List (String × Stmt) :=
  [("NOP", .command .nop), ("LRELEASE", .command .lrelease), ("JBIND", .command .jbind), ("SBIND", .command .sbind),
   ("JCLK", .command .jclk), ("JRDB", .command .jrdb), ("JIDLE", .command .jidle), ("JSDR", .command .jsdr),
   ("JSIR", .command .jsir), ("JDETECT", .command .jdetect), ("JIDCHK", .command .jidchk), ("SLRST", .command .slrst),
   ("SWAKE", .command .swake), ("SJ2S", .command .sj2s), ("SS2J", .command .ss2j), ("SIDCODE", .command .sidcode),
   ("SPROBE", .command .sprobe), ("JEXIT", .jexit), ("JUPDIDLE", .jupdidle), ("JTRSTPULSE", .jtrstpulse),
   ("SWDATTEMPT", .swdattempt)]

/-- Statements with a level operand. -/
def levelStatements : List (String × (Bool → Stmt)) :=
  [("JTDI", fun b => .command (.jtdi b)), ("JTMS", fun b => .command (.jtms b)),
   ("JTRST", fun b => .command (.jtrst b)), ("JBIT", .jbit)]

/-- Statements with a count operand. -/
def countStatements : List (String × (Nat → Stmt)) :=
  [("JSHIFT", fun n => .command (.jshift n)), ("JSEND", fun n => .command (.jsend n)),
   ("JIDS", fun n => .command (.jids n)), ("JBYPASS", fun n => .command (.jbypass n))]

/-- `WR <reg>, <value>` and `WR <reg>.<field>, <value>`. -/
def readWrite (target value : List Char) : Option Stmt :=
  match splitAt (· = '.') target [] with
  | [r] => (readReg r).bind (fun r => (readBelow (2 ^ 32) value).map (fun v => .wr r (BitVec.ofNat 32 v)))
  | [r, f] =>
    (readReg r).bind (fun r => (lookupName r.fields f).bind (fun f =>
      (readBelow (2 ^ f.width) value).map (fun v => .wrField r f v)))
  | _ => none

/-- A statement from its words. -/
def readStatement : List (List Char) → Option Stmt
  | [m] => lookupName plainStatements m
  | [m, x] =>
    if m = "RD".toList then (readReg x).map .rd
    else if m = "WRPAT".toList then (readBelow (2 ^ 32) x).map (fun v => .wrpat (BitVec.ofNat 32 v))
    else
      match lookupName levelStatements m, lookupName countStatements m with
      | some f, _ => (readLevel x).map f
      | none, some f => (readBelow 65536 x).map f
      | none, none => none
  | [m, x, v] => if m = "WR".toList then readWrite x v else none
  | _ => none

/-- One line of a host program: no statement on a blank or comment line, `none` on a line that is no statement. -/
def readLine (line : String) : Option (List Stmt) :=
  match lineWords line.toList with
  | [] => some []
  | ws => (readStatement ws).map ([·])

end Sys2Proof.Machine
end

