-- ==== Sys2Proof/Machine/Targets.lean ====
section
/-! DEFINITION. The reference targets of `95_test_vectors.md` section 1: particular oracles, not part of the engine
(R14, R45). The engine's meanings do not use them; statements and tests about known targets do. An oracle sees the
trace newest event first (log 5). -/

namespace Sys2Proof.Machine

/-- The level last driven on a line, by `Drive` or by a `Cfg` that gives one; low before any (log 15). -/
def lastDriven (l : Nat) : List Event → Bool
  | [] => false
  | .drive k v :: h => if k = l then v else lastDriven l h
  | .cfg k _ (some v) :: h => if k = l then v else lastDriven l h
  | _ :: h => lastDriven l h

/-- `Loopback(tdi, tdo)`. -/
def loopback (tdi tdo : Nat) : Oracle := fun h l => if l = tdo then lastDriven tdi h else true

/-- `Fixed(v)`. -/
def fixedLevel (v : Bool) : Oracle := fun _ _ => v

/-- How many samples of a line the trace holds. -/
def samplesOf (l : Nat) : List Event → Nat
  | [] => 0
  | .sample k _ :: h => (if k = l then 1 else 0) + samplesOf l h
  | _ :: h => samplesOf l h

/-- `SwdScript(bits)`: the k-th sample of SWDIO returns the k-th scripted bit; after the script, 1. DESIGN CHOICE
(log 24): every other line samples 1. -/
def swdScript (swdio : Nat) (bits : List Bool) : Oracle :=
  fun h l => if l = swdio then bits.getD (samplesOf swdio h) true else true

/-- The even parity of a list of bits. -/
def evenParity (bits : List Bool) : Bool := bits.foldl Bool.xor false

/-- `SwdTarget(ack, data)`. -/
def swdTarget (swdio : Nat) (ack : BitVec 3) (data : Word) : Oracle :=
  swdScript swdio (lsbits ack 3 ++
    if ack = 0b001#3 then lsbits data 32 ++ [evenParity (lsbits data 32)] else [])

/-- One device of the reference chain: its IR length, and its IDCODE if it has one. -/
structure ChainDevice where
  irlen : Nat
  idcode : Option Word
deriving DecidableEq, Repr

/-- What the reference chain holds: the levels of TCK, TMS, TDI and TRST, the TAP state, the flat shift registers
(first bit nearest TDO), which devices select IDCODE, and the level of TDO. -/
structure ChainState where
  tck : Bool
  tms : Bool
  tdi : Bool
  trst : Bool
  tap : TapState
  ir : List Bool
  dr : List Bool
  selectId : List Bool
  tdo : Bool
deriving DecidableEq, Repr

/-- The reset instruction of each device (K4): IDCODE where there is one. -/
def chainReset (devs : List ChainDevice) : List Bool := devs.map (·.idcode.isSome)

/-- The chain before anything is driven on its lines: in Test-Logic-Reset, TDO floating. DESIGN CHOICE (log 22): the
levels it sees until a line is first driven, TCK low, TMS high, TDI low and TRST high, which the fixture does not give. -/
def chainStart (devs : List ChainDevice) : ChainState :=
  { tck := false, tms := true, tdi := false, trst := true, tap := .testLogicReset, ir := [], dr := [],
    selectId := chainReset devs, tdo := true }

/-- Capture-IR: `1, 0, 0, ...` in each device (K5, R136); a device of IR length 0 adds no bit (log 24). -/
def captureIr (devs : List ChainDevice) : List Bool :=
  devs.flatMap (fun d => (List.range d.irlen).map (· == 0))

/-- Capture-DR: the IDCODE, or BYPASS's 0 (K5, R136). -/
def captureDr : List ChainDevice → List Bool → List Bool
  | d :: ds, sel :: sels =>
    (match sel, d.idcode with
      | true, some id => lsbits id 32
      | _, _ => [false]) ++ captureDr ds sels
  | _, _ => []

/-- Whether the instruction `ir` of device `d` selects IDCODE at Update-IR: not where it is all 1s, which is BYPASS
(R136, K5); else where it reads 1 and the device has an IDCODE; every other value is BYPASS (`95_test_vectors.md`
section 1). DEDUCED (log 21): in a 1-bit IR the value 1 is both, and the model takes BYPASS. -/
def selectsIdcode (d : ChainDevice) (ir : List Bool) : Bool :=
  !ir.all id && d.idcode.isSome && natOfBits ir == 1

/-- Update-IR: which devices of the chain select IDCODE, each by its own part of the IR register (R136, log 21). -/
def updateIr : List ChainDevice → List Bool → List Bool
  | [], _ => []
  | d :: ds, ir => selectsIdcode d (ir.take d.irlen) :: updateIr ds (ir.drop d.irlen)

/-- One bit toward TDO. -/
def chainShift (reg : List Bool) (tdi : Bool) : List Bool := (reg ++ [tdi]).drop 1

/-- A rising edge of TCK: act in the current state, then move. -/
def chainRise (devs : List ChainDevice) (c : ChainState) : ChainState :=
  if c.trst = false then { c with tap := .testLogicReset, selectId := chainReset devs }
  else
    let c := match c.tap with
      | .captureIr => { c with ir := captureIr devs }
      | .captureDr => { c with dr := captureDr devs c.selectId }
      | .shiftIr => { c with ir := chainShift c.ir c.tdi }
      | .shiftDr => { c with dr := chainShift c.dr c.tdi }
      | _ => c
    let q := c.tap.next c.tms
    if q = .testLogicReset then { c with tap := q, selectId := chainReset devs } else { c with tap := q }

/-- A falling edge of TCK: Update-IR takes effect and TDO changes (K3). -/
def chainFall (devs : List ChainDevice) (c : ChainState) : ChainState :=
  let c := if c.tap = .updateIr then { c with selectId := updateIr devs c.ir } else c
  { c with tdo := match c.tap with
    | .shiftIr => c.ir.headD true
    | .shiftDr => c.dr.headD true
    | _ => true }

/-- A new level on one of the chain's lines: TCK 0, TMS 1, TDI 2, and TRST 4 where the chain has one. TRST low resets
the TAP asynchronously (R43). DESIGN CHOICE (log 23): it also releases TDO to 1 at once, without a falling edge of TCK. -/
def chainDrive (devs : List ChainDevice) (trst : Bool) (c : ChainState) (l : Nat) (v : Bool) : ChainState :=
  match l with
  | 0 => if c.tck = v then c else if v then chainRise devs { c with tck := v } else chainFall devs { c with tck := v }
  | 1 => { c with tms := v }
  | 2 => { c with tdi := v }
  | 4 =>
    if trst then
      if v then { c with trst := v }
      else { c with trst := v, tap := .testLogicReset, selectId := chainReset devs, tdo := true }
    else c
  | _ => c

/-- The chain after a trace, newest event first. DESIGN CHOICE (log 22): an event that gives a line no level leaves the
chain with the level last driven on it. -/
def chainAfter (devs : List ChainDevice) (trst : Bool) : List Event → ChainState
  | [] => chainStart devs
  | .drive l v :: h => chainDrive devs trst (chainAfter devs trst h) l v
  | .cfg l _ (some v) :: h => chainDrive devs trst (chainAfter devs trst h) l v
  | _ :: h => chainAfter devs trst h

/-- `Chain([(irlen, idcode or none), ...])`, the first device nearest TDO, on lines TCK 0, TMS 1, TDI 2, TDO 3, with
TRST on line 4 when `trst` says so (program P5). An empty chain is a wire, low before anything is driven (log 15). Lines
other than TDO sample 1, which is DEDUCED (log 24). -/
def chainTarget (devs : List ChainDevice) (trst : Bool) : Oracle := fun h l =>
  if l = 3 then if devs.isEmpty then lastDriven 2 h else (chainAfter devs trst h).tdo else true

end Sys2Proof.Machine
end

