-- ==== Sys2Proof/Machine/Trace.lean ====
section
/-! DEFINITION. The vocabulary statements use for traces (R38 in `10_state.md`: a command is correct exactly when it
produces the trace its rule gives): the events of a command, oldest first, written flat, without the machine's loops. -/

namespace Sys2Proof.Machine

/-- An event with the sampled bit left out: what the engine itself decides. -/
def Event.masked : Event → Event
  | .sample l _ => .sample l false
  | e => e

/-- The bits sampled in a list of events, in order. -/
def sampledBits : List Event → List Bool
  | [] => []
  | .sample _ b :: es => b :: sampledBits es
  | _ :: es => sampledBits es

/-- The line an event is about. -/
def Event.line : Event → Nat
  | .cfg l _ _ => l
  | .drive l _ => l
  | .sample l _ => l

/-- Clock pulses on a line (R216 in `70_reset_and_hazards.md`): the events that drive it high. -/
def clockEdges (l : Nat) (es : List Event) : Nat := es.countP (fun e => e == .drive l true)

/-- Every sample among the events `es` (oldest first), made after the history `h` (newest first), is the oracle's
answer from the history before it (R14, R61). -/
def answered (env : Oracle) : List Event → List Event → Prop
  | _, [] => True
  | h, e :: es =>
    (match e with
      | .sample l b => b = env h l
      | _ => True) ∧ answered env (e :: h) es

/-! ### Expected JTAG traces, sampled bits masked -/

/-- The events of one `Pulse` (R100). -/
def pulseShape (s : State) : List Event :=
  [.drive (s.role .tck) true, .sample (s.role .tdo) false, .drive (s.role .tck) false]

/-- The events of `n` pulses. -/
def pulsesShape (s : State) (n : Nat) : List Event := (List.replicate n (pulseShape s)).flatten

/-- The events of `TmsSeq` (R101). -/
def walkShape (s : State) (ts : List Bool) : List Event :=
  ts.flatMap (fun t => .drive (s.role .tms) t :: pulseShape s)

/-- TMS levels of `RestoreIdle` (R102). -/
def idleLevels : List Bool := [true, true, true, true, true, false, false]

/-- The events of `ShiftArray` for the bits sent (R105): TMS high before the last one, TDI before each pulse. -/
def shiftShape (s : State) : List Bool → List Event
  | [] => []
  | [b] => .drive (s.role .tms) true :: .drive (s.role .tdi) b :: pulseShape s
  | b :: bs => .drive (s.role .tdi) b :: pulseShape s ++ shiftShape s bs

/-- The bits `ShiftArray(p, n)` sends (R117): `p[j]`, and 0 from bit 32 on. -/
def sentBits (p : Word) (n : Nat) : List Bool := (List.range n).map p.getLsbD

/-- The events of an IR fill of `n` ones that exits the shift on the last (R130, R133). -/
def floodExitShape (s : State) (n : Nat) : List Event :=
  pulsesShape s (n - 1) ++ .drive (s.role .tms) true :: pulseShape s

/-- The events of phase 1 of `JDETECT` after the closing of `RestoreIdle` (R130, R131). -/
def detectFloodShape (s : State) : List Event :=
  walkShape s [true, true, false, false] ++ .drive (s.role .tdi) true ::
    match s.params.detectMode with
    | .irBits => pulsesShape s s.params.irFloodBits
    | .bypassCount =>
      floodExitShape s s.params.irFloodBits ++ walkShape s [true, false] ++ walkShape s [true, false, false]

/-- The events of `JDETECT` with `k` samples in phase 3 (R130). -/
def detectShape (s : State) (k : Nat) : List Event :=
  walkShape s idleLevels ++ detectFloodShape s ++ .drive (s.role .tdi) false :: pulsesShape s s.params.irZeroBits ++
    .drive (s.role .tdi) true :: pulsesShape s k ++ walkShape s idleLevels

/-- How many samples come before phase 3 of `JDETECT` (R130, R216). -/
def detectLead (p : Params) : Nat :=
  11 + p.irFloodBits + (match p.detectMode with | .irBits => 0 | .bypassCount => 5) + p.irZeroBits

/-- The zeros at the head of a list of bits. -/
def leadingZeros (bits : List Bool) : Nat := (bits.takeWhile (fun b => !b)).length

/-- The events of `JIDS n` (R132). -/
def idsShape (s : State) (n : Nat) : List Event :=
  walkShape s idleLevels ++ walkShape s [true, false, false] ++ .drive (s.role .tdi) true :: pulsesShape s (32 * n) ++
    walkShape s idleLevels

/-- The events of `JBYPASS n` (R133). -/
def bypassShape (s : State) (n : Nat) : List Event :=
  walkShape s idleLevels ++ walkShape s [true, true, false, false] ++ .drive (s.role .tdi) true ::
    floodExitShape s s.params.irFloodBits ++ walkShape s [true, false] ++ walkShape s [true, false, false] ++
    shiftShape s (sentBits s.pat (32 + n)) ++ walkShape s idleLevels

/-! ### Expected SWD traces -/

/-- One SWCLK clock (R152). -/
def swdClockShape (s : State) : List Event := [.drive (s.role .swclk) true, .drive (s.role .swclk) false]

/-- The events of `SwdWrite` for each bit (R150). -/
def swdWriteShape (s : State) (bits : List Bool) : List Event :=
  bits.flatMap (fun b => .drive (s.role .swdio) b :: swdClockShape s)

/-- The events of `n` times `SwdRead` (R151), sampled bits masked. -/
def swdReadShape (s : State) (n : Nat) : List Event :=
  (List.replicate n (.sample (s.role .swdio) false :: swdClockShape s)).flatten

/-- The bits of `LineReset` (R154). -/
def lineResetBits (p : Params) : List Bool := List.replicate p.lineResetCycles true

/-- The bits of `Wake` (R155). -/
def wakeBits : List Bool := lsbits swdAlert 128 ++ lsbits swdIdleGap 4 ++ lsbits swdActivation 8

/-- The bits `SPROBE` writes before the IDCODE request (R159). -/
def probeBits (p : Params) : List Bool :=
  lineResetBits p ++ wakeBits ++ (lineResetBits p ++ lsbits swdJ2s 16) ++ lineResetBits p ++
    List.replicate p.swdIdleCycles false

/-- The events of an IDCODE transaction up to its ACK (R158). -/
def requestShape (s : State) : List Event :=
  swdWriteShape s (lsbits swdHeader 8) ++ .cfg (s.role .swdio) .input none :: swdClockShape s ++ swdReadShape s 3

/-- The closing turnaround of an IDCODE transaction (R158). -/
def closeShape (s : State) : List Event := swdClockShape s ++ [.cfg (s.role .swdio) .output (some false)]

/-- The events of an IDCODE transaction: the data phase and the parity bit only after ACK OK (R158). -/
def transactionShape (s : State) (ok : Bool) : List Event :=
  requestShape s ++ (if ok then swdReadShape s 33 else []) ++ closeShape s

/-! ### Shadow and line levels after a command -/

/-- The TAP shadow after pulses at the given TMS levels, TRST being left alone (R42). -/
def shadowAfter (s : State) (levels : List Bool) : BitVec 16 :=
  levels.foldl (fun m t => if s.trstAsserted then tapBit .testLogicReset else shadowNext t m) s.tapShadow

/-- The shadow after a closing `RestoreIdle`: Run-Test/Idle (R102), or Test-Logic-Reset while TRST is held low
(R42, R43; log 12). -/
def idleShadow (s : State) : BitVec 16 :=
  if s.trstAsserted then tapBit .testLogicReset else tapBit .runTestIdle


/-- `s` with the level of a role's line replaced (R118, R162). -/
def State.withOut (r : Role) (v : Bool) (s : State) : State :=
  { s with lines := s.lines.set (s.role r) { s.line (s.role r) with out := v } }

end Sys2Proof.Machine
end

