-- ==== Sys2Proof/Safety.lean ====
section
/-! DEFINITION. What a good state of the engine is: the invariant every host access keeps. -/

namespace Sys2Proof.Machine

/-- The files have the sizes of R33 and R35 (`10_state.md`), for parameters within R9's constraints. -/
abbrev State.Shaped (s : State) : Prop :=
  s.params.Wf ∧ s.lines.length = s.params.numLines ∧ s.idbuf.length = s.params.maxDevices

/-- The host-written registers hold legal values: reserved bits and bits of absent lines read 0, `PULL` is not 3
(R28 to R31). -/
abbrev State.RegsLegal (s : State) : Prop :=
  legalCand s.params s.cand = s.cand ∧ legalLinecfg s.linecfg = s.linecfg ∧
  legalPinmapJtag s.pinmapJtag = s.pinmapJtag ∧ legalPinmapAux s.pinmapAux = s.pinmapAux

/-- The result registers are in range: `CNT` in `0 .. MAX_DEVICES` (R27), `SWD_OK` only with ACK OK (R24, R158), and
the shadow set has a member (R40). -/
abbrev State.ResultsLegal (s : State) : Prop :=
  s.cnt.toNat ≤ s.params.maxDevices ∧ (s.swdOk = true → s.swdAck = ackOk) ∧ s.tapShadow ≠ 0#16

/-- JTAG bound means a legal assignment over candidate lines, configured: TCK an output resting low, TMS and TDI
outputs, TDO an input, TRST an output when it is enabled (R36, R92, R100). -/
abbrev State.JtagReady (s : State) : Prop :=
  s.jtagBindable = true ∧ (s.line (s.role .tck)).dir = .output ∧ (s.line (s.role .tck)).out = false ∧
  (s.line (s.role .tms)).dir = .output ∧ (s.line (s.role .tdi)).dir = .output ∧ (s.line (s.role .tdo)).dir = .input ∧
  (s.trstEn = true → (s.line (s.role .trst)).dir = .output)

/-- SWD bound means a legal assignment, SWCLK an output resting low and SWDIO an output (R36, R93, R162). -/
abbrev State.SwdReady (s : State) : Prop :=
  s.swdBindable = true ∧ (s.line (s.role .swclk)).dir = .output ∧ (s.line (s.role .swclk)).out = false ∧
  (s.line (s.role .swdio)).dir = .output

/-- At most one protocol is bound, and a bound one is ready (R34, R92, R93). -/
abbrev State.Bound (s : State) : Prop :=
  (s.jbound = true → s.sbound = false ∧ s.JtagReady) ∧ (s.sbound = true → s.jbound = false ∧ s.SwdReady)

/-- What holds at every moment a command can start or end. -/
abbrev State.Inv (s : State) : Prop := s.Shaped ∧ s.RegsLegal ∧ s.ResultsLegal ∧ s.Bound

/-- What holds between the host's accesses: the invariant, and the engine idle (R20, R57). -/
abbrev State.Wf (s : State) : Prop := s.Inv ∧ s.activity = .idle

/-! ### What a command needs (R183, R184 in `60_exceptions.md`) -/

/-- The commands that need JTAG bound (R183, R116). -/
def needsJtag : Instr → Bool
  | .jclk => true
  | .jtdi _ => true
  | .jtms _ => true
  | .jrdb => true
  | .jidle => true
  | .jsdr => true
  | .jsir => true
  | .jshift _ => true
  | .jsend _ => true
  | .jtrst _ => true
  | .jdetect => true
  | .jids _ => true
  | .jbypass _ => true
  | _ => false

/-- The command that also needs TRST enabled (R183). -/
def needsTrst : Instr → Bool
  | .jtrst _ => true
  | _ => false

/-- The commands that need SWD bound (R183). -/
def needsSwd : Instr → Bool
  | .slrst => true
  | .swake => true
  | .sj2s => true
  | .ss2j => true
  | .sidcode => true
  | .sprobe => true
  | _ => false

/-- A binding the command needs is missing (R183). -/
def bindingMissing (i : Instr) (s : State) : Bool :=
  (needsJtag i && !s.jbound) || (needsTrst i && !s.trstEn) || (needsSwd i && !s.sbound)

/-- The count operand is outside the command's range (R184). -/
def outOfRange (i : Instr) (s : State) : Bool :=
  match i with
  | .jsend n => n == 0
  | .jids n => decide (s.params.maxDevices < n)
  | .jbypass n => decide (s.params.maxDevices < n)
  | _ => false

/-- The host may take a step: the outcome is a next state. Every state is safe in this sense (R180, R182). -/
def canStep (s : State) : Prop := ∃ t, step s = .next t

end Sys2Proof.Machine
end

