-- ==== Sys2Proof/Certificates/Slice0/Obligations.lean ====
section
/-! DEFINITION. The statements for the provers. `new` is always what a command appended to the trace, oldest event
first; a `t = { s with … }` names every field a command may change, so every other field of `s` is unchanged. -/

open Sys2Proof Sys2Proof.Machine

/-! ### Encoding -/

/-- Decoding the encoding of a well-formed command gives the command back, for all 24 commands and all operands. -/
def Obligations.DecodeOfEncode : Prop :=
  ∀ i : Instr, i.wf = true → decode (encode i) = .ok i

/-- A word that decodes is the encoding of the command it decodes to: no bit of a command word is ignored. -/
def Obligations.EncodeOfDecode : Prop :=
  ∀ (w : Word) (i : Instr), decode w = .ok i → i.wf = true ∧ encode i = w

/-- R74: each row of the opcode map is selected by exactly the words that match it under its mask. -/
def Obligations.OpcodeRowSelects : Prop :=
  opcodeTable.length = 24 ∧
  ∀ r ∈ opcodeTable, ∀ w : Word, w &&& r.mask = r.pat ↔ ∃ i, decode w = .ok i ∧ i.mnemonic = r.mnemonic

/-- R75: which words are illegal. R182, R189: writing one to `CMD` leaves it there, sets `STATUS.ERR` to `E_ILLEGAL` and
changes nothing else. R75 says "no other effect": that `CMD` nevertheless holds the word is log 11 (DEDUCED), from R71,
R182 and R189. The consumed access and the activity are the model's own fields (logs 2 and 8). -/
def Obligations.IllegalWords : Prop :=
  ∀ w : Word,
    ((∃ r, decode w = .error r) ↔
      ((4 ≤ (wordOpc w).toNat ∧ (wordOpc w).toNat ≤ 0x0F) ∨ (0x1A ≤ (wordOpc w).toNat ∧ (wordOpc w).toNat ≤ 0x1F) ∨
        (0x24 ≤ (wordOpc w).toNat ∧ (wordOpc w).toNat ≤ 0x2F) ∨ 0x36 ≤ (wordOpc w).toNat) ∨
      wordRsv w ≠ 0#7 ∨
      ∃ i : Instr, i.opcode = wordOpc w ∧ ((i.usesB = false ∧ wordB w = true) ∨ (i.usesN = false ∧ wordN w ≠ 0))) ∧
    ((∃ r, decode w = .error r) → ∀ (s : State) (rest : List HostOp), s.inputs = .write 0x00#8 w :: rest →
      step s = .next { s with inputs := rest, cmd := w, err := .eIllegal, activity := .idle })

/-- Words written out from R70 and R74 decode to the commands they stand for. -/
def Obligations.SampleWordsDecode : Prop :=
  decode 0b00000000000000000000000000000010#32 = .ok .jbind ∧
  decode 0b00000000000000000000000100010001#32 = .ok (.jtdi true) ∧
  decode 0b00000000001000000000000000010111#32 = .ok (.jshift 32) ∧
  decode 0b00000000000000110000000000100001#32 = .ok (.jids 3) ∧
  decode 0b00000000000000000000000000110101#32 = .ok .sprobe

/-- R79: what each pseudo-instruction makes the host write, word by word; `WRPAT` writes `PAT` (index 2). -/
def Obligations.PseudoInstructionsExpand : Prop :=
  ∀ (s : State) (b : Bool) (v : Word),
    Stmt.jexit.ops s = [.write 0x00#8 0x00000112#32, .write 0x00#8 0x00000010#32] ∧
    Stmt.jupdidle.ops s = [.write 0x00#8 0x00000112#32, .write 0x00#8 0x00000010#32, .write 0x00#8 0x00000012#32,
      .write 0x00#8 0x00000010#32] ∧
    (Stmt.jbit b).ops s = [.write 0x00#8 (0x00000011#32 ||| (BitVec.ofBool b).setWidth 32 <<< 8), .write 0x00#8 0x00000010#32] ∧
    (Stmt.wrpat v).ops s = [.write 0x02#8 v] ∧
    Stmt.jtrstpulse.ops s = [.write 0x00#8 0x00000019#32, .write 0x00#8 0x00000119#32] ∧
    Stmt.swdattempt.ops s = [.write 0x00#8 0x00000003#32, .write 0x00#8 0x00000035#32]

/-- R78: `WR <reg>.<field>, <value>` reads the register and writes it back with that field replaced and every other bit
as read, for every named field of every register (`CMD`'s fields are R70's, the others those of R24 and R29 to R31).
The model's choice (log 18, DESIGN CHOICE): the value fits the field, and the bits kept are those the register has in
the state in which the statement is issued. -/
def Obligations.FieldWriteIsReadModifyWrite : Prop :=
  ∀ (s : State) (r : Reg) (name : String) (f : Field) (v : Nat), (name, f) ∈ r.fields → v < 2 ^ f.width →
    ∃ w : Word, (Stmt.wrField r f v).ops s = [.read r.index, .write r.index w] ∧
      ∀ k, k < 32 → w.getLsbD k =
        if f.lo ≤ k ∧ k < f.lo + f.width then v.testBit (k - f.lo) else (regRead r.index s).getLsbD k

/-! ### Host accesses and reset -/

/-- R71: a host write to `CMD` of a word that decodes runs that command, with the word in `CMD` and the access
consumed; `withFetchWord` stands for exactly that write. -/
def Obligations.StepRunsDecodedCommand : Prop :=
  (∀ (s : State) (w : Word) (i : Instr) (rest : List HostOp), s.inputs = .write 0x00#8 w :: rest → decode w = .ok i →
    step s = exec i { s with inputs := rest, cmd := w, activity := .executing }) ∧
  (∀ (s : State) (w : Word) (i : Instr), decode w = .ok i →
    step (s.withFetchWord 32 w.toNat) = exec i { s with cmd := w, activity := .executing })

/-- R51, R52: the value of every index, and that a read changes nothing of the engine. -/
def Obligations.RegReadReturnsRegister : Prop :=
  ∀ (s : State) (idx : RegIndex) (rest : List HostOp), s.inputs = .read idx :: rest →
    ∃ v, step s = .next { s with inputs := rest, replies := v :: s.replies } ∧
      (idx = 0x00#8 → v = s.cmd) ∧ (idx = 0x01#8 → v = s.statusWord) ∧ (idx = 0x02#8 → v = s.pat) ∧
      (idx = 0x03#8 → v = s.acc) ∧ (idx = 0x04#8 → v = s.cnt) ∧ (idx = 0x05#8 → v = s.cand) ∧
      (idx = 0x06#8 → v = s.linecfg) ∧ (idx = 0x07#8 → v = s.pinmapJtag) ∧ (idx = 0x08#8 → v = s.pinmapAux) ∧
      (idx = 0x09#8 → v = s.swdIdcode) ∧ (0x0A ≤ idx.toNat ∧ idx.toNat ≤ 0x7F → v = 0#32) ∧
      (∀ k, k < s.params.maxDevices → idx.toNat = 0x80 + k → v = s.idbuf.getD k 0#32) ∧
      (0x80 + s.params.maxDevices ≤ idx.toNat → v = 0#32)

/-- R24: where each field of `STATUS` stands in the word a read returns; bits 15:14 read 0. -/
def Obligations.StatusLayout : Prop :=
  ∀ s : State, (s.statusWord.extractLsb' 0 4).toNat =
      (match s.err with
        | .eNone => 0 | .eIllegal => 1 | .eUnbound => 2 | .eRange => 3 | .eBind => 4 | .eSwdAck => 5) ∧
    s.statusWord.getLsbD 4 = s.valid ∧ s.statusWord.getLsbD 5 = s.echoMatch ∧ s.statusWord.getLsbD 6 = s.swdOk ∧
    s.statusWord.getLsbD 7 = s.swdParity ∧ s.statusWord.extractLsb' 8 3 = s.swdAck ∧
    s.statusWord.getLsbD 11 = s.sbit ∧ s.statusWord.getLsbD 12 = s.jbound ∧ s.statusWord.getLsbD 13 = s.sbound ∧
    s.statusWord.getLsbD 14 = false ∧ s.statusWord.getLsbD 15 = false ∧
    s.statusWord.extractLsb' 16 16 = s.tapShadow

/-- R25, R52: a write to `PAT` stores the word; a write to a read-only or reserved index changes nothing. -/
def Obligations.PatAndIgnoredWrites : Prop :=
  ∀ (s : State) (idx : RegIndex) (v : Word) (rest : List HostOp), s.inputs = .write idx v :: rest →
    (idx = 0x02#8 → step s = .next { s with inputs := rest, pat := v }) ∧
    (idx = 0x01#8 ∨ idx = 0x03#8 ∨ idx = 0x04#8 ∨ 0x09 ≤ idx.toNat → step s = .next { s with inputs := rest })

/-- R28: a write to `CAND` keeps the bits of existing lines, reads 0 elsewhere, unbinds, and touches no line. -/
def Obligations.CandWrite : Prop :=
  ∀ (s : State) (v : Word) (rest : List HostOp), s.params.Wf → s.inputs = .write 0x05#8 v :: rest →
    ∃ c, step s = .next { s with inputs := rest, cand := c, jbound := false, sbound := false } ∧
      ∀ l, c.getLsbD l = (decide (l < s.params.numLines) && v.getLsbD l)

/-- R29: a write to `LINECFG` stores bits 1:0, a 3 as 0, and nothing else. -/
def Obligations.LinecfgWrite : Prop :=
  ∀ (s : State) (v : Word) (rest : List HostOp), s.inputs = .write 0x06#8 v :: rest →
    ∃ c, step s = .next { s with inputs := rest, linecfg := c } ∧
      c.toNat = (if v.toNat % 4 = 3 then 0 else v.toNat % 4)

/-- R30: a write to `PINMAP_JTAG` stores the four 5-bit fields, reads 0 elsewhere, and unbinds JTAG. -/
def Obligations.PinmapJtagWrite : Prop :=
  ∀ (s : State) (v : Word) (rest : List HostOp), s.inputs = .write 0x07#8 v :: rest →
    ∃ t, step s = .next t ∧ t = { s with inputs := rest, pinmapJtag := t.pinmapJtag, jbound := false } ∧
      (∀ i, t.pinmapJtag.getLsbD i = (decide (i % 8 < 5) && v.getLsbD i)) ∧
      t.role .tck = v.toNat % 32 ∧ t.role .tms = v.toNat / 2 ^ 8 % 32 ∧
      t.role .tdi = v.toNat / 2 ^ 16 % 32 ∧ t.role .tdo = v.toNat / 2 ^ 24 % 32

/-- R31: a write to `PINMAP_AUX` stores `TRST`, `TRST_EN`, `SWCLK`, `SWDIO`, reads 0 elsewhere, and unbinds both. -/
def Obligations.PinmapAuxWrite : Prop :=
  ∀ (s : State) (v : Word) (rest : List HostOp), s.inputs = .write 0x08#8 v :: rest →
    ∃ t, step s = .next t ∧
      t = { s with inputs := rest, pinmapAux := t.pinmapAux, jbound := false, sbound := false } ∧
      (∀ i, t.pinmapAux.getLsbD i = (decide (i < 5 ∨ i = 7 ∨ (8 ≤ i ∧ i < 13) ∨ (16 ≤ i ∧ i < 21)) && v.getLsbD i)) ∧
      t.role .trst = v.toNat % 32 ∧ t.trstEn = v.getLsbD 7 ∧ t.role .swclk = v.toNat / 2 ^ 8 % 32 ∧
      t.role .swdio = v.toNat / 2 ^ 16 % 32

/-- R46: the reset value of every piece of engine state. -/
def Obligations.ResetValues : Prop :=
  let s := State.reset
  s.cmd = 0#32 ∧ s.err = .eNone ∧ s.valid = false ∧ s.echoMatch = false ∧ s.swdOk = false ∧ s.swdParity = false ∧
  s.sbit = false ∧ s.swdAck = 0b000#3 ∧ s.jbound = false ∧ s.sbound = false ∧ s.tapShadow = 0xFFFF#16 ∧
  s.pat = 0#32 ∧ s.acc = 0#32 ∧ s.cnt = 0#32 ∧ s.swdIdcode = 0#32 ∧ s.cand = 0#32 ∧ s.linecfg = 0#32 ∧
  s.pinmapJtag = 0#32 ∧ s.pinmapAux = 0#32 ∧ s.trstEn = false ∧
  s.idbuf.length = s.params.maxDevices ∧ (∀ w ∈ s.idbuf, w = 0#32) ∧
  s.lines.length = s.params.numLines ∧ (∀ x ∈ s.lines, x.dir = .input ∧ x.pull = .none ∧ x.out = false) ∧
  s.hist = []

/-- R200, R202: the reset input, taken between commands in any state, puts all engine state at the reset values. The
four fields kept or counted are the model's own (logs 1, 2, 3, 6). -/
def Obligations.ResetInputResets : Prop :=
  ∀ (s : State) (rest : List HostOp), s.inputs = .reset :: rest →
    ∃ t, step s = .next t ∧
      t = { State.resetWith s.params with resets := s.resets + 1, inputs := rest, replies := s.replies } ∧
      (s.params = Config.params →
        t = { State.reset with resets := t.resets, inputs := t.inputs, replies := t.replies })

/-! ### The invariant and the whole machine -/

/-- The state after reset meets the invariant. -/
def Obligations.ResetWellFormed : Prop := State.reset.Wf

/-- Every step, whatever the input, keeps the invariant: register legality (R28 to R31), sizes (R33, R35), legal and
configured bindings (R36, R92, R93), `CNT` in range (R27), a non-empty shadow (R40), the engine idle between accesses. -/
def Obligations.StepKeepsWellFormed : Prop :=
  ∀ s t : State, s.Wf → step s = .next t → t.Wf

/-- R180: no command faults or is refused, in any state, and the engine is idle after it; a step always answers. -/
def Obligations.CommandsAlwaysFinish : Prop :=
  (∀ (i : Instr) (s : State), ∃ t, exec i s = .next t ∧ t.activity = .idle) ∧ ∀ s : State, canStep s

/-- R14, R61: a command only appends to the trace, each sample is the target's answer to the history before it, and
`SBIT` is the last sampled bit. -/
def Obligations.TraceGrowsByAnswers : Prop :=
  ∀ (i : Instr) (s t : State), exec i s = .next t →
    ∃ new, t.trace = s.trace ++ new ∧ answered s.env s.hist new ∧ t.sbit = (sampledBits new).getLastD s.sbit

/-- R25, R28 to R31: no command writes a host-written register, the parameters, or the host's own queue. -/
def Obligations.CommandsKeepHostRegisters : Prop :=
  ∀ (i : Instr) (s t : State), exec i s = .next t →
    t.cmd = s.cmd ∧ t.pat = s.pat ∧ t.cand = s.cand ∧ t.linecfg = s.linecfg ∧ t.pinmapJtag = s.pinmapJtag ∧
    t.pinmapAux = s.pinmapAux ∧ t.params = s.params ∧ t.resets = s.resets ∧ t.inputs = s.inputs ∧ t.replies = s.replies

/-- R36: a command configures, drives and samples candidate lines only. -/
def Obligations.OnlyCandidateLinesTouched : Prop :=
  ∀ (i : Instr) (s t : State), s.Inv → exec i s = .next t →
    (∀ l, s.owns l = false → t.line l = s.line l) ∧
    ∃ new, t.trace = s.trace ++ new ∧ ∀ e ∈ new, s.owns e.line = true

/-- R183: exactly which commands finish `E_UNBOUND`, and that they then have no other effect. -/
def Obligations.UnboundCommands : Prop :=
  ∀ (i : Instr) (s : State),
    (bindingMissing i s = true → exec i s = .next { s with err := .eUnbound, activity := .idle }) ∧
    (bindingMissing i s = false → ∃ t, exec i s = .next t ∧ t.err ≠ .eUnbound)

/-- R184, R188: exactly which commands finish `E_RANGE`, after the binding check, and that they have no other effect. -/
def Obligations.RangeErrors : Prop :=
  ∀ (i : Instr) (s : State), bindingMissing i s = false →
    (outOfRange i s = true → exec i s = .next { s with err := .eRange, activity := .idle }) ∧
    (outOfRange i s = false → ∃ t, exec i s = .next t ∧ t.err ≠ .eRange)

/-- R189, R181: a command that ends in `E_ILLEGAL`, `E_UNBOUND`, `E_RANGE` or `E_BIND` changes nothing else; `E_BIND`
comes only from a bind and `E_SWD_ACK` only from an IDCODE transaction. -/
def Obligations.ErrorsLeaveStateUnchanged : Prop :=
  ∀ (i : Instr) (s t : State), exec i s = .next t →
    (t.err ≠ .eNone → t.err ≠ .eSwdAck → t = { s with err := t.err, activity := .idle }) ∧ t.err ≠ .eIllegal ∧
    (t.err = .eBind → i = .jbind ∨ i = .sbind) ∧ (t.err = .eSwdAck → i = .sidcode ∨ i = .sprobe)

/-- R44: nothing but the shadow depends on the shadow. -/
def Obligations.ShadowIsInformational : Prop :=
  ∀ (i : Instr) (s t : State) (m : BitVec 16), exec i s = .next t →
    ∃ m', exec i { s with tapShadow := m } = .next { t with tapShadow := m' }

/-! ### Line control -/

/-- R90: `NOP` writes `E_NONE` and nothing else; its word is `0x00000000` alone. -/
def Obligations.NopOnlyClearsErr : Prop :=
  (∀ w : Word, wordOpc w = 0x00#8 → if w = 0x00000000#32 then decode w = .ok .nop else ∃ r, decode w = .error r) ∧
  ∀ s : State, exec .nop s = .next { s with err := .eNone, activity := .idle }

/-- R91: `LRELEASE` makes each candidate line an input with the configured pull, in ascending order, and unbinds. -/
def Obligations.LreleaseReleases : Prop :=
  decode 0x00000001#32 = .ok .lrelease ∧
  ∀ s : State, s.Shaped → ∃ t, exec .lrelease s = .next t ∧
    t.trace = s.trace ++
      ((List.range s.params.numLines).filter (fun l => s.cand.getLsbD l)).map (fun l => .cfg l .input none) ∧
    (∀ l, t.line l = if s.owns l then ⟨.input, s.pull, (s.line l).out⟩ else s.line l) ∧
    t = { s with lines := t.lines, hist := t.hist, jbound := false, sbound := false, err := .eNone, activity := .idle }

/-- R92: `JBIND` over a legal assignment: its events, the lines after it, and the flags. -/
def Obligations.JbindBinds : Prop :=
  decode 0x00000002#32 = .ok .jbind ∧
  (∀ s : State, s.Shaped → s.jtagLines.Nodup → (∀ l ∈ s.jtagLines, l < s.params.numLines ∧ s.cand.getLsbD l = true) →
    ∃ t, exec .jbind s = .next t ∧
      t.trace = s.trace ++
        ((List.range s.params.numLines).filter (fun l => s.cand.getLsbD l)).map (fun l => .cfg l .input none) ++
        [.cfg (s.role .tck) .output (some false), .cfg (s.role .tms) .output (some true),
          .cfg (s.role .tdi) .output (some false)] ++
        (if s.trstEn then [.cfg (s.role .trst) .output (some true)] else []) ∧
      (∀ l, t.line l =
        if l = s.role .tck then ⟨.output, s.pull, false⟩
        else if l = s.role .tms then ⟨.output, s.pull, true⟩
        else if l = s.role .tdi then ⟨.output, s.pull, false⟩
        else if s.trstEn = true ∧ l = s.role .trst then ⟨.output, s.pull, true⟩
        else if s.owns l then ⟨.input, s.pull, (s.line l).out⟩
        else s.line l) ∧
      t = { s with
            lines := t.lines, hist := t.hist, jbound := true, sbound := false, tapShadow := 0xFFFF#16,
            err := .eNone, activity := .idle }) ∧
  (∀ s : State, ¬ (s.jtagLines.Nodup ∧ ∀ l ∈ s.jtagLines, l < s.params.numLines ∧ s.cand.getLsbD l = true) →
    exec .jbind s = .next { s with err := .eBind, activity := .idle })

/-- R93: `SBIND` over a legal assignment: its events, the lines after it, and the flags. -/
def Obligations.SbindBinds : Prop :=
  decode 0x00000003#32 = .ok .sbind ∧
  (∀ s : State, s.Shaped → s.role .swclk ≠ s.role .swdio →
    (∀ l ∈ s.swdLines, l < s.params.numLines ∧ s.cand.getLsbD l = true) →
    ∃ t, exec .sbind s = .next t ∧
      t.trace = s.trace ++
        ((List.range s.params.numLines).filter (fun l => s.cand.getLsbD l)).map (fun l => .cfg l .input none) ++
        [.cfg (s.role .swclk) .output (some false), .cfg (s.role .swdio) .output (some true)] ∧
      (∀ l, t.line l =
        if l = s.role .swclk then ⟨.output, s.pull, false⟩
        else if l = s.role .swdio then ⟨.output, s.pull, true⟩
        else if s.owns l then ⟨.input, s.pull, (s.line l).out⟩
        else s.line l) ∧
      t = { s with
            lines := t.lines, hist := t.hist, sbound := true, jbound := false, tapShadow := 0xFFFF#16,
            err := .eNone, activity := .idle }) ∧
  (∀ s : State, ¬ (s.role .swclk ≠ s.role .swdio ∧ ∀ l ∈ s.swdLines, l < s.params.numLines ∧ s.cand.getLsbD l = true) →
    exec .sbind s = .next { s with err := .eBind, activity := .idle })

/-- R186: with too few candidate lines no bind can succeed, and none touches a line. -/
def Obligations.TooFewCandidatesFailBind : Prop :=
  ∀ s : State,
    (s.candLines.length < (if s.trstEn then 5 else 4) →
      exec .jbind s = .next { s with err := .eBind, activity := .idle }) ∧
    (s.candLines.length < 2 → exec .sbind s = .next { s with err := .eBind, activity := .idle })

/-! ### JTAG bit engine -/

/-- R106: `JCLK` is one pulse; the sampled bit is in `SBIT`, the shadow moves by the level of TMS, no line ends changed. -/
def Obligations.JclkPulses : Prop :=
  decode 0x00000010#32 = .ok .jclk ∧
  (∀ s : State, s.jbound = false → exec .jclk s = .next { s with err := .eUnbound, activity := .idle }) ∧
  ∀ s : State, s.Inv → s.jbound = true → ∃ b, b = s.env (.drive (s.role .tck) true :: s.hist) (s.role .tdo) ∧
    exec .jclk s = .next { s with
      hist := .drive (s.role .tck) false :: .sample (s.role .tdo) b :: .drive (s.role .tck) true :: s.hist
      sbit := b
      tapShadow := shadowAfter s [(s.line (s.role .tms)).out]
      err := .eNone
      activity := .idle }

/-- R107, R108: `JTDI b` and `JTMS b` drive one level, with no clock edge and no change of the shadow. -/
def Obligations.JtdiJtmsDrive : Prop :=
  (∀ b : Bool, decode (0x00000011#32 ||| (BitVec.ofBool b).setWidth 32 <<< 8) = .ok (.jtdi b) ∧
    decode (0x00000012#32 ||| (BitVec.ofBool b).setWidth 32 <<< 8) = .ok (.jtms b)) ∧
  (∀ (s : State) (b : Bool), s.jbound = false → ∀ i ∈ [Instr.jtdi b, .jtms b],
    exec i s = .next { s with err := .eUnbound, activity := .idle }) ∧
  ∀ (s : State) (b : Bool), s.jbound = true →
    exec (.jtdi b) s = .next { s with
      lines := (s.withOut .tdi b).lines, hist := .drive (s.role .tdi) b :: s.hist, err := .eNone, activity := .idle } ∧
    exec (.jtms b) s = .next { s with
      lines := (s.withOut .tms b).lines, hist := .drive (s.role .tms) b :: s.hist, err := .eNone, activity := .idle }

/-- R109: `JRDB` samples TDO once, with no clock edge. -/
def Obligations.JrdbSamples : Prop :=
  decode 0x00000013#32 = .ok .jrdb ∧
  (∀ s : State, s.jbound = false → exec .jrdb s = .next { s with err := .eUnbound, activity := .idle }) ∧
  ∀ s : State, s.jbound = true → ∃ b, b = s.env s.hist (s.role .tdo) ∧
    exec .jrdb s = .next { s with
      hist := .sample (s.role .tdo) b :: s.hist, sbit := b, err := .eNone, activity := .idle }

/-- R110, R102: `JIDLE` walks TMS 1,1,1,1,1,0,0; from any shadow it ends in Run-Test/Idle, or in Test-Logic-Reset while
TRST is held low, which R42 and R43 say and R102 does not except (log 12, DEDUCED). -/
def Obligations.JidleRestoresIdle : Prop :=
  decode 0x00000014#32 = .ok .jidle ∧
  ∀ s : State, s.Inv → s.jbound = true → ∃ t new, exec .jidle s = .next t ∧ t.trace = s.trace ++ new ∧
    new.map Event.masked = walkShape s [true, true, true, true, true, false, false] ∧ answered s.env s.hist new ∧
    t = { s with
          lines := (s.withOut .tms false).lines, hist := t.hist, sbit := (sampledBits new).getLastD s.sbit
          tapShadow := if s.trstAsserted then tapBit .testLogicReset else tapBit .runTestIdle
          err := .eNone, activity := .idle }

/-- R111, R112: `JSDR` and `JSIR` walk TMS 1,0,0 and 1,1,0,0. -/
def Obligations.JsdrJsirWalk : Prop :=
  decode 0x00000015#32 = .ok .jsdr ∧ decode 0x00000016#32 = .ok .jsir ∧
  (∀ s : State, s.jbound = false → ∀ i ∈ [Instr.jsdr, .jsir],
    exec i s = .next { s with err := .eUnbound, activity := .idle }) ∧
  ∀ s : State, s.Inv → s.jbound = true →
    (∃ t new, exec .jsdr s = .next t ∧ t.trace = s.trace ++ new ∧
      new.map Event.masked = walkShape s [true, false, false] ∧ answered s.env s.hist new ∧
      t = { s with
            lines := (s.withOut .tms false).lines, hist := t.hist, sbit := (sampledBits new).getLastD s.sbit
            tapShadow := shadowAfter s [true, false, false], err := .eNone, activity := .idle }) ∧
    (∃ t new, exec .jsir s = .next t ∧ t.trace = s.trace ++ new ∧
      new.map Event.masked = walkShape s [true, true, false, false] ∧ answered s.env s.hist new ∧
      t = { s with
            lines := (s.withOut .tms false).lines, hist := t.hist, sbit := (sampledBits new).getLastD s.sbit
            tapShadow := shadowAfter s [true, true, false, false], err := .eNone, activity := .idle })

/-- R113, R117: `JSHIFT n` sends `PAT` LSB first, then zeros, TMS high on the last bit, and leaves the last 32 bits
received in `ACC`, the last one in bit 0. -/
def Obligations.JshiftShifts : Prop :=
  (∀ n : Nat, n < 65536 → decode (0x00000017#32 ||| BitVec.ofNat 32 n <<< 16) = .ok (.jshift n)) ∧
  (∀ (s : State) (n : Nat), s.jbound = false →
    exec (.jshift n) s = .next { s with err := .eUnbound, activity := .idle }) ∧
  ∀ (s : State) (n : Nat), s.Inv → s.jbound = true → ∃ t new, exec (.jshift n) s = .next t ∧
    t.trace = s.trace ++ new ∧ new.map Event.masked = shiftShape s (sentBits s.pat n) ∧ answered s.env s.hist new ∧
    (sampledBits new).length = n ∧
    (∀ m, m < 32 → t.acc.getLsbD m = if m < n then (sampledBits new).getD (n - 1 - m) false else false) ∧
    t = { s with
          lines := if n = 0 then s.lines else ((s.withOut .tms true).withOut .tdi (s.pat.getLsbD (n - 1))).lines
          hist := t.hist, sbit := (sampledBits new).getLastD s.sbit, acc := t.acc
          tapShadow := if n = 0 then s.tapShadow
            else shadowAfter s (List.replicate (n - 1) (s.line (s.role .tms)).out ++ [true])
          err := .eNone, activity := .idle }

/-- R114: `JSEND n` for `n` at least 1 enters Shift-DR, shifts as `JSHIFT`, and goes through Update-DR to idle; `JSEND 0`
is `E_RANGE`. -/
def Obligations.JsendSends : Prop :=
  (∀ n : Nat, n < 65536 → decode (0x00000018#32 ||| BitVec.ofNat 32 n <<< 16) = .ok (.jsend n)) ∧
  (∀ (s : State) (n : Nat), s.jbound = false →
    exec (.jsend n) s = .next { s with err := .eUnbound, activity := .idle }) ∧
  (∀ s : State, s.jbound = true → exec (.jsend 0) s = .next { s with err := .eRange, activity := .idle }) ∧
  ∀ (s : State) (n : Nat), s.Inv → s.jbound = true → 1 ≤ n → ∃ t new, exec (.jsend n) s = .next t ∧
    t.trace = s.trace ++ new ∧
    new.map Event.masked =
      walkShape s [true, false, false] ++ shiftShape s (sentBits s.pat n) ++ walkShape s [true, false] ∧
    answered s.env s.hist new ∧ (sampledBits new).length = n + 5 ∧
    (∀ m, m < 32 → t.acc.getLsbD m = if m < n then (sampledBits new).getD (3 + (n - 1 - m)) false else false) ∧
    t = { s with
          lines := ((s.withOut .tms false).withOut .tdi (s.pat.getLsbD (n - 1))).lines
          hist := t.hist, sbit := (sampledBits new).getLastD s.sbit, acc := t.acc
          tapShadow := shadowAfter s ([true, false, false] ++ List.replicate (n - 1) false ++ [true, true, false])
          err := .eNone, activity := .idle }

/-- R115: `JTRST b` drives TRST; low sets the shadow to Test-Logic-Reset, high leaves it. -/
def Obligations.JtrstDrives : Prop :=
  (∀ b : Bool, decode (0x00000019#32 ||| (BitVec.ofBool b).setWidth 32 <<< 8) = .ok (.jtrst b)) ∧
  ∀ (s : State) (b : Bool),
    (s.jbound = true → s.trstEn = true →
      exec (.jtrst b) s = .next { s with
        lines := (s.withOut .trst b).lines, hist := .drive (s.role .trst) b :: s.hist
        tapShadow := if b then s.tapShadow else tapBit .testLogicReset, err := .eNone, activity := .idle }) ∧
    (s.jbound = false ∨ s.trstEn = false → exec (.jtrst b) s = .next { s with err := .eUnbound, activity := .idle })

/-- R42: the shadow update is the image of the set of states under the transition table. -/
def Obligations.ShadowNextIsImage : Prop :=
  ∀ (t : Bool) (m : BitVec 16) (q : TapState),
    (shadowNext t m).getLsbD q.number = true ↔ ∃ p : TapState, m.getLsbD p.number = true ∧ p.next t = q

/-- R41, R42: five clocks with TMS high reach Test-Logic-Reset from any non-empty set of states, two more with TMS low
reach Run-Test/Idle and stay there. -/
def Obligations.FiveOnesReachReset : Prop :=
  ∀ m : BitVec 16, m ≠ 0#16 →
    shadowNext true (shadowNext true (shadowNext true (shadowNext true (shadowNext true m)))) = tapBit .testLogicReset ∧
    shadowNext false (tapBit .testLogicReset) = tapBit .runTestIdle ∧
    shadowNext false (tapBit .runTestIdle) = tapBit .runTestIdle

/-- R118: where the shadow ends after each shifting command that starts as the table requires, TRST not being held low. -/
def Obligations.NetTapEffects : Prop :=
  ∀ (s t : State) (n : Nat), s.Inv → s.jbound = true → s.trstAsserted = false → 1 ≤ n →
    (s.tapShadow = tapBit .runTestIdle → exec .jsdr s = .next t → t.tapShadow = tapBit .shiftDr) ∧
    (s.tapShadow = tapBit .runTestIdle → exec .jsir s = .next t → t.tapShadow = tapBit .shiftIr) ∧
    (s.tapShadow = tapBit .shiftDr → (s.line (s.role .tms)).out = false → exec (.jshift n) s = .next t →
      t.tapShadow = tapBit .exit1Dr) ∧
    (s.tapShadow = tapBit .shiftIr → (s.line (s.role .tms)).out = false → exec (.jshift n) s = .next t →
      t.tapShadow = tapBit .exit1Ir) ∧
    (s.tapShadow = tapBit .runTestIdle → exec (.jsend n) s = .next t → t.tapShadow = tapBit .runTestIdle)

/-- R117: the loopback law. On a wire from TDI to TDO the `n`-bit reversal of what `ShiftArray` returns is what was sent;
for 32 bits, `bitrev32` of it is the pattern. -/
def Obligations.LoopbackShiftReturnsPattern : Prop :=
  ∀ (s : State) (p : Word) (n : Nat), s.Inv → s.jbound = true → n ≤ 32 →
    (∀ m, m < 32 → (shiftArray (loopback (s.role .tdi) (s.role .tdo)) p n s).1.getLsbD m =
      if m < n then p.getLsbD (n - 1 - m) else false) ∧
    bitrev32 (shiftArray (loopback (s.role .tdi) (s.role .tdo)) p 32 s).1 = p

/-- R216: TCK pulses per command, for fills of 128 bits; `z` is the number of phase-3 samples of `JDETECT`. -/
def Obligations.JtagPulseCounts : Prop :=
  ∀ (s : State) (n m : Nat) (b : Bool), s.Inv → s.jbound = true → m ≤ s.params.maxDevices →
    s.params.irFloodBits = 128 → s.params.irZeroBits = 128 →
    (∀ (i : Instr) (k : Nat),
      (i, k) ∈ [(Instr.nop, 0), (.lrelease, 0), (.jbind, 0), (.sbind, 0), (.jtdi b, 0), (.jtms b, 0), (.jrdb, 0),
        (.jtrst b, 0), (.jidchk, 0), (.jclk, 1), (.jidle, 7), (.jsdr, 3), (.jsir, 4), (.jshift n, n),
        (.jsend (n + 1), n + 6), (.jids m, 17 + 32 * m), (.jbypass m, 183 + m)] →
      ∃ t new, exec i s = .next t ∧ t.trace = s.trace ++ new ∧ clockEdges (s.role .tck) new = k) ∧
    ∃ t new z, exec .jdetect s = .next t ∧ t.trace = s.trace ++ new ∧ 1 ≤ z ∧ z ≤ s.params.maxDevices + 1 ∧
      clockEdges (s.role .tck) new = (match s.params.detectMode with | .irBits => 274 | .bypassCount => 279) + z

/-! ### JTAG chain prober -/

/-- R130, R131: `JDETECT` in both modes: its trace, and `CNT` from the bits sampled. `leadingZeros` counts the zeros before
the first 1 of phase 3; more than `MAX_DEVICES` of them give 0. -/
def Obligations.JdetectCounts : Prop :=
  decode 0x00000020#32 = .ok .jdetect ∧
  ∀ s : State, s.Inv → s.jbound = true → ∃ t new c k, exec .jdetect s = .next t ∧ t.trace = s.trace ++ new ∧
    new.map Event.masked = detectShape s k ∧ answered s.env s.hist new ∧
    c = leadingZeros ((sampledBits new).drop (detectLead s.params)) ∧ k = min (c + 1) (s.params.maxDevices + 1) ∧
    t.cnt.toNat = (if c ≤ s.params.maxDevices then c else 0) ∧
    t = { s with
          lines := ((s.withOut .tms false).withOut .tdi true).lines, hist := t.hist
          sbit := (sampledBits new).getLastD s.sbit, tapShadow := idleShadow s, cnt := t.cnt
          err := .eNone, activity := .idle }

/-- R130: a target that always answers 0, one that always answers 1, and a plain wire from TDI to TDO all give `CNT = 0`. -/
def Obligations.JdetectWithoutDevices : Prop :=
  ∀ s : State, s.Inv → s.jbound = true →
    (jdetectBody (fixedLevel false) s).cnt = 0#32 ∧ (jdetectBody (fixedLevel true) s).cnt = 0#32 ∧
    (jdetectBody (loopback (s.role .tdi) (s.role .tdo)) s).cnt = 0#32

/-- R132: `JIDS n` writes every word of `IDBUF`: the bits read, first one in bit 0, then zeros. -/
def Obligations.JidsReadsWords : Prop :=
  (∀ n : Nat, n < 65536 → decode (0x00000021#32 ||| BitVec.ofNat 32 n <<< 16) = .ok (.jids n)) ∧
  ∀ (s : State) (n : Nat), s.Inv → s.jbound = true → n ≤ s.params.maxDevices → ∃ t new, exec (.jids n) s = .next t ∧
    t.trace = s.trace ++ new ∧ new.map Event.masked = idsShape s n ∧ answered s.env s.hist new ∧
    (sampledBits new).length = 17 + 32 * n ∧ t.idbuf.length = s.params.maxDevices ∧
    (∀ k j, k < n → j < 32 →
      (t.idbuf.getD k 0#32).getLsbD j = (sampledBits new).getD (10 + 32 * k + j) false) ∧
    (∀ k, n ≤ k → k < s.params.maxDevices → t.idbuf.getD k 0#32 = 0#32) ∧
    t = { s with
          lines := ((s.withOut .tms false).withOut .tdi true).lines, hist := t.hist
          sbit := (sampledBits new).getLastD s.sbit, tapShadow := idleShadow s, idbuf := t.idbuf
          err := .eNone, activity := .idle }

/-- R133: `JBYPASS n` leaves the last 32 bits received in `ACC`, first one in bit 0, and compares them with `PAT`. -/
def Obligations.JbypassEchoes : Prop :=
  (∀ n : Nat, n < 65536 → decode (0x00000022#32 ||| BitVec.ofNat 32 n <<< 16) = .ok (.jbypass n)) ∧
  ∀ (s : State) (n : Nat), s.Inv → s.jbound = true → n ≤ s.params.maxDevices → ∃ t new, exec (.jbypass n) s = .next t ∧
    t.trace = s.trace ++ new ∧ new.map Event.masked = bypassShape s n ∧ answered s.env s.hist new ∧
    (sampledBits new).length = s.params.irFloodBits + 55 + n ∧
    (∀ j, j < 32 → t.acc.getLsbD j = (sampledBits new).getD (s.params.irFloodBits + 16 + n + j) false) ∧
    t.echoMatch = decide (t.acc = s.pat) ∧
    t = { s with
          lines := ((s.withOut .tms false).withOut .tdi (s.pat.getLsbD (31 + n))).lines, hist := t.hist
          sbit := (sampledBits new).getLastD s.sbit, tapShadow := idleShadow s, acc := t.acc, echoMatch := t.echoMatch
          err := .eNone, activity := .idle }

/-- R133 for a chain of no device: on a plain wire from TDI to TDO, `ACC = PAT >> n`. -/
def Obligations.JbypassOnWire : Prop :=
  ∀ (s : State) (n : Nat), s.Inv → s.jbound = true → n ≤ s.params.maxDevices →
    (jbypassBody (loopback (s.role .tdi) (s.role .tdo)) n s).acc = s.pat >>> n

/-- R134: `JIDCHK` is the plausibility filter on bits 7:1 and 11:8 of `PAT`; it needs no binding and touches no line. -/
def Obligations.JidchkFilters : Prop :=
  decode 0x00000023#32 = .ok .jidchk ∧
  ∀ s : State, exec .jidchk s = .next { s with
    valid := decide (2 ≤ s.pat.toNat / 2 % 128) && decide (s.pat.toNat / 256 % 16 ≤ 8), err := .eNone, activity := .idle }

/-! ### SWD -/

/-- R154: `SLRST` writes `LINE_RESET_CYCLES` ones. -/
def Obligations.SlrstResetsLine : Prop :=
  decode 0x00000030#32 = .ok .slrst ∧
  (∀ s : State, s.sbound = false → exec .slrst s = .next { s with err := .eUnbound, activity := .idle }) ∧
  ∀ s : State, s.Inv → s.sbound = true → exec .slrst s = .next { s with
    lines := (s.withOut .swdio true).lines
    hist := (swdWriteShape s (List.replicate s.params.lineResetCycles true)).reverse ++ s.hist
    err := .eNone, activity := .idle }

/-- R155: `SWAKE` writes the selection alert, four zeros and the activation code, each LSB first. -/
def Obligations.SwakeWakes : Prop :=
  decode 0x00000031#32 = .ok .swake ∧
  (∀ s : State, s.sbound = false → exec .swake s = .next { s with err := .eUnbound, activity := .idle }) ∧
  (wakeBits.length = 140 ∧ wakeBits.take 8 = [false, true, false, false, true, false, false, true] ∧
    wakeBits.drop 128 = [false, false, false, false, false, true, false, true, true, false, false, false]) ∧
  ∀ s : State, s.Inv → s.sbound = true → exec .swake s = .next { s with
    lines := (s.withOut .swdio false).lines, hist := (swdWriteShape s wakeBits).reverse ++ s.hist
    err := .eNone, activity := .idle }

/-- R156, R157: `SJ2S` and `SS2J` write a line reset and then `0111100111100111` or `0011110011100111`. -/
def Obligations.SwitchSequences : Prop :=
  decode 0x00000032#32 = .ok .sj2s ∧ decode 0x00000033#32 = .ok .ss2j ∧
  (∀ s : State, s.sbound = false → ∀ i ∈ [Instr.sj2s, .ss2j],
    exec i s = .next { s with err := .eUnbound, activity := .idle }) ∧
  ∀ s : State, s.Inv → s.sbound = true →
    exec .sj2s s = .next { s with
      lines := (s.withOut .swdio true).lines
      hist := (swdWriteShape s (List.replicate s.params.lineResetCycles true ++
        [false, true, true, true, true, false, false, true, true, true, true, false, false, true, true, true])).reverse ++ s.hist
      err := .eNone, activity := .idle } ∧
    exec .ss2j s = .next { s with
      lines := (s.withOut .swdio true).lines
      hist := (swdWriteShape s (List.replicate s.params.lineResetCycles true ++
        [false, false, true, true, true, true, false, false, true, true, true, false, false, true, true, true])).reverse ++ s.hist
      err := .eNone, activity := .idle }

/-- R158, R160, R161: `SIDCODE`. Any ACK other than `0b001` aborts after 3 samples; ACK OK reads 32 data bits, first one
in bit 0, and a parity bit that changes nothing else. SWDIO ends an output driven low. -/
def Obligations.SidcodeReads : Prop :=
  decode 0x00000034#32 = .ok .sidcode ∧
  (∀ s : State, s.sbound = false → exec .sidcode s = .next { s with err := .eUnbound, activity := .idle }) ∧
  ∀ s : State, s.Inv → s.sbound = true → ∃ t new r, exec .sidcode s = .next t ∧ t.trace = s.trace ++ new ∧
    answered s.env s.hist new ∧ r = sampledBits new ∧
    new.map Event.masked = transactionShape s (t.swdAck == 0b001#3) ∧
    (∀ i, i < 3 → t.swdAck.getLsbD i = r.getD i false) ∧
    (t.swdAck = 0b001#3 → r.length = 36 ∧ t.swdOk = true ∧ t.err = .eNone ∧ t.swdParity = r.getD 35 false ∧
      ∀ i, i < 32 → t.swdIdcode.getLsbD i = r.getD (3 + i) false) ∧
    (t.swdAck ≠ 0b001#3 → r.length = 3 ∧ t.swdOk = false ∧ t.err = .eSwdAck ∧ t.swdParity = false ∧ t.swdIdcode = 0#32) ∧
    t = { s with
          lines := s.lines.set (s.role .swdio) ⟨.output, s.pull, false⟩, hist := t.hist, sbit := r.getLastD s.sbit
          swdAck := t.swdAck, swdOk := t.swdOk, swdParity := t.swdParity, swdIdcode := t.swdIdcode, err := t.err
          activity := .idle }

/-- R159: `SPROBE` writes its resets, wake, switch and idle bits, then does what `SIDCODE` does. -/
def Obligations.SprobeProbes : Prop :=
  decode 0x00000035#32 = .ok .sprobe ∧
  (∀ s : State, s.sbound = false → exec .sprobe s = .next { s with err := .eUnbound, activity := .idle }) ∧
  ∀ s : State, s.Inv → s.sbound = true → ∃ t new r, exec .sprobe s = .next t ∧ t.trace = s.trace ++ new ∧
    answered s.env s.hist new ∧ r = sampledBits new ∧
    new.map Event.masked = swdWriteShape s (probeBits s.params) ++ transactionShape s (t.swdAck == 0b001#3) ∧
    (∀ i, i < 3 → t.swdAck.getLsbD i = r.getD i false) ∧
    (t.swdAck = 0b001#3 → r.length = 36 ∧ t.swdOk = true ∧ t.err = .eNone ∧ t.swdParity = r.getD 35 false ∧
      ∀ i, i < 32 → t.swdIdcode.getLsbD i = r.getD (3 + i) false) ∧
    (t.swdAck ≠ 0b001#3 → r.length = 3 ∧ t.swdOk = false ∧ t.err = .eSwdAck ∧ t.swdParity = false ∧ t.swdIdcode = 0#32) ∧
    t = { s with
          lines := s.lines.set (s.role .swdio) ⟨.output, s.pull, false⟩, hist := t.hist, sbit := r.getLastD s.sbit
          swdAck := t.swdAck, swdOk := t.swdOk, swdParity := t.swdParity, swdIdcode := t.swdIdcode, err := t.err
          activity := .idle }

/-- R159: `SPROBE` is `SLRST ; SWAKE ; SJ2S ; SLRST`, the idle cycles, then `SIDCODE`, as one command. -/
def Obligations.SprobeIsSequence : Prop :=
  ∀ s : State, s.sbound = true → ∃ t1 t2 t3 t4, exec .slrst s = .next t1 ∧ exec .swake t1 = .next t2 ∧
    exec .sj2s t2 = .next t3 ∧ exec .slrst t3 = .next t4 ∧ exec .sprobe s = exec .sidcode (idleCycles t4)

/-- R158 on the scripted target that answers OK: whatever the 32-bit IDCODE, the transaction returns exactly it. -/
def Obligations.SidcodeReturnsTargetIdcode : Prop :=
  ∀ (s : State) (data : Word), s.Inv → s.sbound = true → samplesOf (s.role .swdio) s.hist = 0 →
    ∃ t, t = sidcodeBody (swdTarget (s.role .swdio) 0b001#3 data) s ∧ t.swdIdcode = data ∧ t.swdOk = true ∧
      t.swdAck = 0b001#3 ∧ t.err = .eNone

/-- R162: SWCLK pulses, and direction and level of SWDIO, after each SWD command, for the default cycle counts. -/
def Obligations.SwdNetEffects : Prop :=
  ∀ s : State, s.Inv → s.sbound = true → s.params.lineResetCycles = 52 → s.params.swdIdleCycles = 2 →
    ∀ (i : Instr) (kOk kBad : Nat) (level : Bool),
      (i, kOk, kBad, level) ∈ [(Instr.slrst, 52, 52, true), (.swake, 140, 140, false), (.sj2s, 68, 68, true),
        (.ss2j, 68, 68, true), (.sidcode, 46, 13, false), (.sprobe, 360, 327, false)] →
      ∃ t new, exec i s = .next t ∧ t.trace = s.trace ++ new ∧
        clockEdges (s.role .swclk) new = (if t.err = .eNone then kOk else kBad) ∧
        (t.line (s.role .swclk)).dir = .output ∧ (t.line (s.role .swclk)).out = false ∧
        (t.line (s.role .swdio)).dir = .output ∧ (t.line (s.role .swdio)).out = level
end

