-- ==== Sys2Proof/Laws/Decode.lean ====
section
/-! SUPPORT. The fields of a command word (R70, R78), and when two words are equal. -/

namespace Sys2Proof

/-- A word is its four fields (R70). -/
theorem word_ext (w v : Word) (h1 : wordOpc w = wordOpc v) (h2 : wordB w = wordB v) (h3 : wordRsv w = wordRsv v)
    (h4 : wordN w = wordN v) : w = v := by
  apply BitVec.eq_of_getLsbD_eq
  intro i hi
  have h4' : w.extractLsb' 16 16 = v.extractLsb' 16 16 := BitVec.eq_of_toNat_eq h4
  by_cases a : i < 8
  · have := congrArg (fun x => x.getLsbD i) h1
    simpa [wordOpc, a] using this
  · by_cases b : i = 8
    · subst b; exact h2
    · by_cases c : i < 16
      · have := congrArg (fun x => x.getLsbD (i - 9)) h3
        simpa [wordRsv, show i - 9 < 7 by omega, show 9 + (i - 9) = i by omega] using this
      · have := congrArg (fun x => x.getLsbD (i - 16)) h4'
        simpa [show i - 16 < 16 by omega, show 16 + (i - 16) = i by omega] using this

theorem commandWord_opc (opc : BitVec 8) (b : Bool) (n : Nat) : wordOpc (commandWord opc b n) = opc := by
  apply BitVec.eq_of_getLsbD_eq; intro i hi
  simp [wordOpc, commandWord, hi, show i < 16 by omega, show i < 32 by omega]

theorem commandWord_b (opc : BitVec 8) (b : Bool) (n : Nat) : wordB (commandWord opc b n) = b := by
  simp [wordB, commandWord]

theorem commandWord_rsv (opc : BitVec 8) (b : Bool) (n : Nat) : wordRsv (commandWord opc b n) = 0#7 := by
  apply BitVec.eq_of_getLsbD_eq; intro i hi
  simp [wordRsv, commandWord, hi, show 9 + i < 16 by omega, show 9 + i - 8 ≠ 0 by omega]
  intro _; exact BitVec.getLsbD_of_ge _ _ (by omega)

theorem commandWord_n (opc : BitVec 8) (b : Bool) (n : Nat) (hn : n < 65536) : wordN (commandWord opc b n) = n := by
  have : (commandWord opc b n).extractLsb' 16 16 = BitVec.ofNat 16 n := by
    apply BitVec.eq_of_getLsbD_eq; intro i hi
    simp [commandWord, hi, show 16 + i < 32 by omega, show 16 + i - 8 ≠ 0 by omega]
    rw [BitVec.getLsbD_of_ge opc _ (by omega)]
    simp [← BitVec.getLsbD_eq_getElem, BitVec.getLsbD_ofNat, hi, show i < 32 by omega]
  unfold wordN
  rw [this]; simp; omega

/-- The words of the commands with a count (R73, R78). -/
theorem decode_withN (opc : BitVec 8) (f : Nat → Instr) (hop : opcodeShape opc = some (.withN f)) (n : Nat)
    (hn : n < 65536) : decode (commandWord opc false n) = .ok (f n) := by
  simp only [decode, commandWord_opc, hop, commandWord_rsv, commandWord_b, commandWord_n _ _ n hn]
  simp

end Sys2Proof
end

