-- ==== Sys2Proof/Laws/State.lean ====
section
/-! SUPPORT. What each primitive state update does to each field: true by definition, in the project's simp set. -/

namespace Sys2Proof.Machine

@[simp] theorem cfg_params (l : Nat) (d : Dir) (v : Option Bool) (s : State) : (cfg l d v s).params = s.params := rfl
@[simp] theorem cfg_cmd (l : Nat) (d : Dir) (v : Option Bool) (s : State) : (cfg l d v s).cmd = s.cmd := rfl
@[simp] theorem cfg_err (l : Nat) (d : Dir) (v : Option Bool) (s : State) : (cfg l d v s).err = s.err := rfl
@[simp] theorem cfg_valid (l : Nat) (d : Dir) (v : Option Bool) (s : State) : (cfg l d v s).valid = s.valid := rfl
@[simp] theorem cfg_echoMatch (l : Nat) (d : Dir) (v : Option Bool) (s : State) : (cfg l d v s).echoMatch = s.echoMatch := rfl
@[simp] theorem cfg_swdOk (l : Nat) (d : Dir) (v : Option Bool) (s : State) : (cfg l d v s).swdOk = s.swdOk := rfl
@[simp] theorem cfg_swdParity (l : Nat) (d : Dir) (v : Option Bool) (s : State) : (cfg l d v s).swdParity = s.swdParity := rfl
@[simp] theorem cfg_swdAck (l : Nat) (d : Dir) (v : Option Bool) (s : State) : (cfg l d v s).swdAck = s.swdAck := rfl
@[simp] theorem cfg_sbit (l : Nat) (d : Dir) (v : Option Bool) (s : State) : (cfg l d v s).sbit = s.sbit := rfl
@[simp] theorem cfg_jbound (l : Nat) (d : Dir) (v : Option Bool) (s : State) : (cfg l d v s).jbound = s.jbound := rfl
@[simp] theorem cfg_sbound (l : Nat) (d : Dir) (v : Option Bool) (s : State) : (cfg l d v s).sbound = s.sbound := rfl
@[simp] theorem cfg_tapShadow (l : Nat) (d : Dir) (v : Option Bool) (s : State) : (cfg l d v s).tapShadow = s.tapShadow := rfl
@[simp] theorem cfg_pat (l : Nat) (d : Dir) (v : Option Bool) (s : State) : (cfg l d v s).pat = s.pat := rfl
@[simp] theorem cfg_acc (l : Nat) (d : Dir) (v : Option Bool) (s : State) : (cfg l d v s).acc = s.acc := rfl
@[simp] theorem cfg_cnt (l : Nat) (d : Dir) (v : Option Bool) (s : State) : (cfg l d v s).cnt = s.cnt := rfl
@[simp] theorem cfg_cand (l : Nat) (d : Dir) (v : Option Bool) (s : State) : (cfg l d v s).cand = s.cand := rfl
@[simp] theorem cfg_linecfg (l : Nat) (d : Dir) (v : Option Bool) (s : State) : (cfg l d v s).linecfg = s.linecfg := rfl
@[simp] theorem cfg_pinmapJtag (l : Nat) (d : Dir) (v : Option Bool) (s : State) : (cfg l d v s).pinmapJtag = s.pinmapJtag := rfl
@[simp] theorem cfg_pinmapAux (l : Nat) (d : Dir) (v : Option Bool) (s : State) : (cfg l d v s).pinmapAux = s.pinmapAux := rfl
@[simp] theorem cfg_swdIdcode (l : Nat) (d : Dir) (v : Option Bool) (s : State) : (cfg l d v s).swdIdcode = s.swdIdcode := rfl
@[simp] theorem cfg_idbuf (l : Nat) (d : Dir) (v : Option Bool) (s : State) : (cfg l d v s).idbuf = s.idbuf := rfl
@[simp] theorem cfg_lines (l : Nat) (d : Dir) (v : Option Bool) (s : State) : (cfg l d v s).lines = s.lines.set l { dir := d, pull := s.pull, out := v.getD (s.line l).out } := rfl
@[simp] theorem cfg_hist (l : Nat) (d : Dir) (v : Option Bool) (s : State) : (cfg l d v s).hist = .cfg l d v :: s.hist := rfl
@[simp] theorem cfg_activity (l : Nat) (d : Dir) (v : Option Bool) (s : State) : (cfg l d v s).activity = s.activity := rfl
@[simp] theorem cfg_resets (l : Nat) (d : Dir) (v : Option Bool) (s : State) : (cfg l d v s).resets = s.resets := rfl
@[simp] theorem cfg_inputs (l : Nat) (d : Dir) (v : Option Bool) (s : State) : (cfg l d v s).inputs = s.inputs := rfl
@[simp] theorem cfg_replies (l : Nat) (d : Dir) (v : Option Bool) (s : State) : (cfg l d v s).replies = s.replies := rfl
@[simp] theorem cfg_role (l : Nat) (d : Dir) (v : Option Bool) (s : State) (x : Role) : (cfg l d v s).role x = s.role x := rfl
@[simp] theorem cfg_trstEn (l : Nat) (d : Dir) (v : Option Bool) (s : State) : (cfg l d v s).trstEn = s.trstEn := rfl
@[simp] theorem cfg_pull (l : Nat) (d : Dir) (v : Option Bool) (s : State) : (cfg l d v s).pull = s.pull := rfl
@[simp] theorem cfg_owns (l : Nat) (d : Dir) (v : Option Bool) (s : State) (x : Nat) : (cfg l d v s).owns x = s.owns x := rfl
@[simp] theorem cfg_candLines (l : Nat) (d : Dir) (v : Option Bool) (s : State) : (cfg l d v s).candLines = s.candLines := rfl
@[simp] theorem cfg_env (l : Nat) (d : Dir) (v : Option Bool) (s : State) : (cfg l d v s).env = s.env := rfl
@[simp] theorem cfg_jtagLines (l : Nat) (d : Dir) (v : Option Bool) (s : State) : (cfg l d v s).jtagLines = s.jtagLines := rfl
@[simp] theorem cfg_swdLines (l : Nat) (d : Dir) (v : Option Bool) (s : State) : (cfg l d v s).swdLines = s.swdLines := rfl
@[simp] theorem cfg_jtagBindable (l : Nat) (d : Dir) (v : Option Bool) (s : State) : (cfg l d v s).jtagBindable = s.jtagBindable := rfl
@[simp] theorem cfg_swdBindable (l : Nat) (d : Dir) (v : Option Bool) (s : State) : (cfg l d v s).swdBindable = s.swdBindable := rfl

@[simp] theorem drive_params (r : Role) (v : Bool) (s : State) : (drive r v s).params = s.params := rfl
@[simp] theorem drive_cmd (r : Role) (v : Bool) (s : State) : (drive r v s).cmd = s.cmd := rfl
@[simp] theorem drive_err (r : Role) (v : Bool) (s : State) : (drive r v s).err = s.err := rfl
@[simp] theorem drive_valid (r : Role) (v : Bool) (s : State) : (drive r v s).valid = s.valid := rfl
@[simp] theorem drive_echoMatch (r : Role) (v : Bool) (s : State) : (drive r v s).echoMatch = s.echoMatch := rfl
@[simp] theorem drive_swdOk (r : Role) (v : Bool) (s : State) : (drive r v s).swdOk = s.swdOk := rfl
@[simp] theorem drive_swdParity (r : Role) (v : Bool) (s : State) : (drive r v s).swdParity = s.swdParity := rfl
@[simp] theorem drive_swdAck (r : Role) (v : Bool) (s : State) : (drive r v s).swdAck = s.swdAck := rfl
@[simp] theorem drive_sbit (r : Role) (v : Bool) (s : State) : (drive r v s).sbit = s.sbit := rfl
@[simp] theorem drive_jbound (r : Role) (v : Bool) (s : State) : (drive r v s).jbound = s.jbound := rfl
@[simp] theorem drive_sbound (r : Role) (v : Bool) (s : State) : (drive r v s).sbound = s.sbound := rfl
@[simp] theorem drive_tapShadow (r : Role) (v : Bool) (s : State) : (drive r v s).tapShadow = s.tapShadow := rfl
@[simp] theorem drive_pat (r : Role) (v : Bool) (s : State) : (drive r v s).pat = s.pat := rfl
@[simp] theorem drive_acc (r : Role) (v : Bool) (s : State) : (drive r v s).acc = s.acc := rfl
@[simp] theorem drive_cnt (r : Role) (v : Bool) (s : State) : (drive r v s).cnt = s.cnt := rfl
@[simp] theorem drive_cand (r : Role) (v : Bool) (s : State) : (drive r v s).cand = s.cand := rfl
@[simp] theorem drive_linecfg (r : Role) (v : Bool) (s : State) : (drive r v s).linecfg = s.linecfg := rfl
@[simp] theorem drive_pinmapJtag (r : Role) (v : Bool) (s : State) : (drive r v s).pinmapJtag = s.pinmapJtag := rfl
@[simp] theorem drive_pinmapAux (r : Role) (v : Bool) (s : State) : (drive r v s).pinmapAux = s.pinmapAux := rfl
@[simp] theorem drive_swdIdcode (r : Role) (v : Bool) (s : State) : (drive r v s).swdIdcode = s.swdIdcode := rfl
@[simp] theorem drive_idbuf (r : Role) (v : Bool) (s : State) : (drive r v s).idbuf = s.idbuf := rfl
@[simp] theorem drive_lines (r : Role) (v : Bool) (s : State) : (drive r v s).lines = (s.withOut r v).lines := rfl
@[simp] theorem drive_hist (r : Role) (v : Bool) (s : State) : (drive r v s).hist = .drive (s.role r) v :: s.hist := rfl
@[simp] theorem drive_activity (r : Role) (v : Bool) (s : State) : (drive r v s).activity = s.activity := rfl
@[simp] theorem drive_resets (r : Role) (v : Bool) (s : State) : (drive r v s).resets = s.resets := rfl
@[simp] theorem drive_inputs (r : Role) (v : Bool) (s : State) : (drive r v s).inputs = s.inputs := rfl
@[simp] theorem drive_replies (r : Role) (v : Bool) (s : State) : (drive r v s).replies = s.replies := rfl
@[simp] theorem drive_role (r : Role) (v : Bool) (s : State) (x : Role) : (drive r v s).role x = s.role x := rfl
@[simp] theorem drive_trstEn (r : Role) (v : Bool) (s : State) : (drive r v s).trstEn = s.trstEn := rfl
@[simp] theorem drive_pull (r : Role) (v : Bool) (s : State) : (drive r v s).pull = s.pull := rfl
@[simp] theorem drive_owns (r : Role) (v : Bool) (s : State) (x : Nat) : (drive r v s).owns x = s.owns x := rfl
@[simp] theorem drive_candLines (r : Role) (v : Bool) (s : State) : (drive r v s).candLines = s.candLines := rfl
@[simp] theorem drive_env (r : Role) (v : Bool) (s : State) : (drive r v s).env = s.env := rfl
@[simp] theorem drive_jtagLines (r : Role) (v : Bool) (s : State) : (drive r v s).jtagLines = s.jtagLines := rfl
@[simp] theorem drive_swdLines (r : Role) (v : Bool) (s : State) : (drive r v s).swdLines = s.swdLines := rfl
@[simp] theorem drive_jtagBindable (r : Role) (v : Bool) (s : State) : (drive r v s).jtagBindable = s.jtagBindable := rfl
@[simp] theorem drive_swdBindable (r : Role) (v : Bool) (s : State) : (drive r v s).swdBindable = s.swdBindable := rfl

@[simp] theorem sample_params (env : Oracle) (r : Role) (s : State) : (sample env r s).2.params = s.params := rfl
@[simp] theorem sample_cmd (env : Oracle) (r : Role) (s : State) : (sample env r s).2.cmd = s.cmd := rfl
@[simp] theorem sample_err (env : Oracle) (r : Role) (s : State) : (sample env r s).2.err = s.err := rfl
@[simp] theorem sample_valid (env : Oracle) (r : Role) (s : State) : (sample env r s).2.valid = s.valid := rfl
@[simp] theorem sample_echoMatch (env : Oracle) (r : Role) (s : State) : (sample env r s).2.echoMatch = s.echoMatch := rfl
@[simp] theorem sample_swdOk (env : Oracle) (r : Role) (s : State) : (sample env r s).2.swdOk = s.swdOk := rfl
@[simp] theorem sample_swdParity (env : Oracle) (r : Role) (s : State) : (sample env r s).2.swdParity = s.swdParity := rfl
@[simp] theorem sample_swdAck (env : Oracle) (r : Role) (s : State) : (sample env r s).2.swdAck = s.swdAck := rfl
@[simp] theorem sample_sbit (env : Oracle) (r : Role) (s : State) : (sample env r s).2.sbit = env s.hist (s.role r) := rfl
@[simp] theorem sample_jbound (env : Oracle) (r : Role) (s : State) : (sample env r s).2.jbound = s.jbound := rfl
@[simp] theorem sample_sbound (env : Oracle) (r : Role) (s : State) : (sample env r s).2.sbound = s.sbound := rfl
@[simp] theorem sample_tapShadow (env : Oracle) (r : Role) (s : State) : (sample env r s).2.tapShadow = s.tapShadow := rfl
@[simp] theorem sample_pat (env : Oracle) (r : Role) (s : State) : (sample env r s).2.pat = s.pat := rfl
@[simp] theorem sample_acc (env : Oracle) (r : Role) (s : State) : (sample env r s).2.acc = s.acc := rfl
@[simp] theorem sample_cnt (env : Oracle) (r : Role) (s : State) : (sample env r s).2.cnt = s.cnt := rfl
@[simp] theorem sample_cand (env : Oracle) (r : Role) (s : State) : (sample env r s).2.cand = s.cand := rfl
@[simp] theorem sample_linecfg (env : Oracle) (r : Role) (s : State) : (sample env r s).2.linecfg = s.linecfg := rfl
@[simp] theorem sample_pinmapJtag (env : Oracle) (r : Role) (s : State) : (sample env r s).2.pinmapJtag = s.pinmapJtag := rfl
@[simp] theorem sample_pinmapAux (env : Oracle) (r : Role) (s : State) : (sample env r s).2.pinmapAux = s.pinmapAux := rfl
@[simp] theorem sample_swdIdcode (env : Oracle) (r : Role) (s : State) : (sample env r s).2.swdIdcode = s.swdIdcode := rfl
@[simp] theorem sample_idbuf (env : Oracle) (r : Role) (s : State) : (sample env r s).2.idbuf = s.idbuf := rfl
@[simp] theorem sample_lines (env : Oracle) (r : Role) (s : State) : (sample env r s).2.lines = s.lines := rfl
@[simp] theorem sample_hist (env : Oracle) (r : Role) (s : State) : (sample env r s).2.hist = .sample (s.role r) (env s.hist (s.role r)) :: s.hist := rfl
@[simp] theorem sample_activity (env : Oracle) (r : Role) (s : State) : (sample env r s).2.activity = s.activity := rfl
@[simp] theorem sample_resets (env : Oracle) (r : Role) (s : State) : (sample env r s).2.resets = s.resets := rfl
@[simp] theorem sample_inputs (env : Oracle) (r : Role) (s : State) : (sample env r s).2.inputs = s.inputs := rfl
@[simp] theorem sample_replies (env : Oracle) (r : Role) (s : State) : (sample env r s).2.replies = s.replies := rfl
@[simp] theorem sample_role (env : Oracle) (r : Role) (s : State) (x : Role) : (sample env r s).2.role x = s.role x := rfl
@[simp] theorem sample_trstEn (env : Oracle) (r : Role) (s : State) : (sample env r s).2.trstEn = s.trstEn := rfl
@[simp] theorem sample_pull (env : Oracle) (r : Role) (s : State) : (sample env r s).2.pull = s.pull := rfl
@[simp] theorem sample_owns (env : Oracle) (r : Role) (s : State) (x : Nat) : (sample env r s).2.owns x = s.owns x := rfl
@[simp] theorem sample_candLines (env : Oracle) (r : Role) (s : State) : (sample env r s).2.candLines = s.candLines := rfl
@[simp] theorem sample_env (env : Oracle) (r : Role) (s : State) : (sample env r s).2.env = s.env := rfl
@[simp] theorem sample_jtagLines (env : Oracle) (r : Role) (s : State) : (sample env r s).2.jtagLines = s.jtagLines := rfl
@[simp] theorem sample_swdLines (env : Oracle) (r : Role) (s : State) : (sample env r s).2.swdLines = s.swdLines := rfl
@[simp] theorem sample_jtagBindable (env : Oracle) (r : Role) (s : State) : (sample env r s).2.jtagBindable = s.jtagBindable := rfl
@[simp] theorem sample_swdBindable (env : Oracle) (r : Role) (s : State) : (sample env r s).2.swdBindable = s.swdBindable := rfl

@[simp] theorem finish_params (c : Code) (s : State) : (finish c s).params = s.params := rfl
@[simp] theorem finish_cmd (c : Code) (s : State) : (finish c s).cmd = s.cmd := rfl
@[simp] theorem finish_err (c : Code) (s : State) : (finish c s).err = c := rfl
@[simp] theorem finish_valid (c : Code) (s : State) : (finish c s).valid = s.valid := rfl
@[simp] theorem finish_echoMatch (c : Code) (s : State) : (finish c s).echoMatch = s.echoMatch := rfl
@[simp] theorem finish_swdOk (c : Code) (s : State) : (finish c s).swdOk = s.swdOk := rfl
@[simp] theorem finish_swdParity (c : Code) (s : State) : (finish c s).swdParity = s.swdParity := rfl
@[simp] theorem finish_swdAck (c : Code) (s : State) : (finish c s).swdAck = s.swdAck := rfl
@[simp] theorem finish_sbit (c : Code) (s : State) : (finish c s).sbit = s.sbit := rfl
@[simp] theorem finish_jbound (c : Code) (s : State) : (finish c s).jbound = s.jbound := rfl
@[simp] theorem finish_sbound (c : Code) (s : State) : (finish c s).sbound = s.sbound := rfl
@[simp] theorem finish_tapShadow (c : Code) (s : State) : (finish c s).tapShadow = s.tapShadow := rfl
@[simp] theorem finish_pat (c : Code) (s : State) : (finish c s).pat = s.pat := rfl
@[simp] theorem finish_acc (c : Code) (s : State) : (finish c s).acc = s.acc := rfl
@[simp] theorem finish_cnt (c : Code) (s : State) : (finish c s).cnt = s.cnt := rfl
@[simp] theorem finish_cand (c : Code) (s : State) : (finish c s).cand = s.cand := rfl
@[simp] theorem finish_linecfg (c : Code) (s : State) : (finish c s).linecfg = s.linecfg := rfl
@[simp] theorem finish_pinmapJtag (c : Code) (s : State) : (finish c s).pinmapJtag = s.pinmapJtag := rfl
@[simp] theorem finish_pinmapAux (c : Code) (s : State) : (finish c s).pinmapAux = s.pinmapAux := rfl
@[simp] theorem finish_swdIdcode (c : Code) (s : State) : (finish c s).swdIdcode = s.swdIdcode := rfl
@[simp] theorem finish_idbuf (c : Code) (s : State) : (finish c s).idbuf = s.idbuf := rfl
@[simp] theorem finish_lines (c : Code) (s : State) : (finish c s).lines = s.lines := rfl
@[simp] theorem finish_hist (c : Code) (s : State) : (finish c s).hist = s.hist := rfl
@[simp] theorem finish_activity (c : Code) (s : State) : (finish c s).activity = .idle := rfl
@[simp] theorem finish_resets (c : Code) (s : State) : (finish c s).resets = s.resets := rfl
@[simp] theorem finish_inputs (c : Code) (s : State) : (finish c s).inputs = s.inputs := rfl
@[simp] theorem finish_replies (c : Code) (s : State) : (finish c s).replies = s.replies := rfl
@[simp] theorem finish_role (c : Code) (s : State) (x : Role) : (finish c s).role x = s.role x := rfl
@[simp] theorem finish_trstEn (c : Code) (s : State) : (finish c s).trstEn = s.trstEn := rfl
@[simp] theorem finish_pull (c : Code) (s : State) : (finish c s).pull = s.pull := rfl
@[simp] theorem finish_owns (c : Code) (s : State) (x : Nat) : (finish c s).owns x = s.owns x := rfl
@[simp] theorem finish_candLines (c : Code) (s : State) : (finish c s).candLines = s.candLines := rfl
@[simp] theorem finish_env (c : Code) (s : State) : (finish c s).env = s.env := rfl
@[simp] theorem finish_jtagLines (c : Code) (s : State) : (finish c s).jtagLines = s.jtagLines := rfl
@[simp] theorem finish_swdLines (c : Code) (s : State) : (finish c s).swdLines = s.swdLines := rfl
@[simp] theorem finish_jtagBindable (c : Code) (s : State) : (finish c s).jtagBindable = s.jtagBindable := rfl
@[simp] theorem finish_swdBindable (c : Code) (s : State) : (finish c s).swdBindable = s.swdBindable := rfl

@[simp] theorem storeCommand_params (w : Word) (s : State) : (storeCommand w s).params = s.params := rfl
@[simp] theorem storeCommand_cmd (w : Word) (s : State) : (storeCommand w s).cmd = w := rfl
@[simp] theorem storeCommand_err (w : Word) (s : State) : (storeCommand w s).err = s.err := rfl
@[simp] theorem storeCommand_valid (w : Word) (s : State) : (storeCommand w s).valid = s.valid := rfl
@[simp] theorem storeCommand_echoMatch (w : Word) (s : State) : (storeCommand w s).echoMatch = s.echoMatch := rfl
@[simp] theorem storeCommand_swdOk (w : Word) (s : State) : (storeCommand w s).swdOk = s.swdOk := rfl
@[simp] theorem storeCommand_swdParity (w : Word) (s : State) : (storeCommand w s).swdParity = s.swdParity := rfl
@[simp] theorem storeCommand_swdAck (w : Word) (s : State) : (storeCommand w s).swdAck = s.swdAck := rfl
@[simp] theorem storeCommand_sbit (w : Word) (s : State) : (storeCommand w s).sbit = s.sbit := rfl
@[simp] theorem storeCommand_jbound (w : Word) (s : State) : (storeCommand w s).jbound = s.jbound := rfl
@[simp] theorem storeCommand_sbound (w : Word) (s : State) : (storeCommand w s).sbound = s.sbound := rfl
@[simp] theorem storeCommand_tapShadow (w : Word) (s : State) : (storeCommand w s).tapShadow = s.tapShadow := rfl
@[simp] theorem storeCommand_pat (w : Word) (s : State) : (storeCommand w s).pat = s.pat := rfl
@[simp] theorem storeCommand_acc (w : Word) (s : State) : (storeCommand w s).acc = s.acc := rfl
@[simp] theorem storeCommand_cnt (w : Word) (s : State) : (storeCommand w s).cnt = s.cnt := rfl
@[simp] theorem storeCommand_cand (w : Word) (s : State) : (storeCommand w s).cand = s.cand := rfl
@[simp] theorem storeCommand_linecfg (w : Word) (s : State) : (storeCommand w s).linecfg = s.linecfg := rfl
@[simp] theorem storeCommand_pinmapJtag (w : Word) (s : State) : (storeCommand w s).pinmapJtag = s.pinmapJtag := rfl
@[simp] theorem storeCommand_pinmapAux (w : Word) (s : State) : (storeCommand w s).pinmapAux = s.pinmapAux := rfl
@[simp] theorem storeCommand_swdIdcode (w : Word) (s : State) : (storeCommand w s).swdIdcode = s.swdIdcode := rfl
@[simp] theorem storeCommand_idbuf (w : Word) (s : State) : (storeCommand w s).idbuf = s.idbuf := rfl
@[simp] theorem storeCommand_lines (w : Word) (s : State) : (storeCommand w s).lines = s.lines := rfl
@[simp] theorem storeCommand_hist (w : Word) (s : State) : (storeCommand w s).hist = s.hist := rfl
@[simp] theorem storeCommand_activity (w : Word) (s : State) : (storeCommand w s).activity = .executing := rfl
@[simp] theorem storeCommand_resets (w : Word) (s : State) : (storeCommand w s).resets = s.resets := rfl
@[simp] theorem storeCommand_inputs (w : Word) (s : State) : (storeCommand w s).inputs = s.inputs := rfl
@[simp] theorem storeCommand_replies (w : Word) (s : State) : (storeCommand w s).replies = s.replies := rfl
@[simp] theorem storeCommand_role (w : Word) (s : State) (x : Role) : (storeCommand w s).role x = s.role x := rfl
@[simp] theorem storeCommand_trstEn (w : Word) (s : State) : (storeCommand w s).trstEn = s.trstEn := rfl
@[simp] theorem storeCommand_pull (w : Word) (s : State) : (storeCommand w s).pull = s.pull := rfl
@[simp] theorem storeCommand_owns (w : Word) (s : State) (x : Nat) : (storeCommand w s).owns x = s.owns x := rfl
@[simp] theorem storeCommand_candLines (w : Word) (s : State) : (storeCommand w s).candLines = s.candLines := rfl
@[simp] theorem storeCommand_env (w : Word) (s : State) : (storeCommand w s).env = s.env := rfl
@[simp] theorem storeCommand_jtagLines (w : Word) (s : State) : (storeCommand w s).jtagLines = s.jtagLines := rfl
@[simp] theorem storeCommand_swdLines (w : Word) (s : State) : (storeCommand w s).swdLines = s.swdLines := rfl
@[simp] theorem storeCommand_jtagBindable (w : Word) (s : State) : (storeCommand w s).jtagBindable = s.jtagBindable := rfl
@[simp] theorem storeCommand_swdBindable (w : Word) (s : State) : (storeCommand w s).swdBindable = s.swdBindable := rfl

@[simp] theorem withOut_params (r : Role) (v : Bool) (s : State) : (s.withOut r v).params = s.params := rfl
@[simp] theorem withOut_cmd (r : Role) (v : Bool) (s : State) : (s.withOut r v).cmd = s.cmd := rfl
@[simp] theorem withOut_err (r : Role) (v : Bool) (s : State) : (s.withOut r v).err = s.err := rfl
@[simp] theorem withOut_valid (r : Role) (v : Bool) (s : State) : (s.withOut r v).valid = s.valid := rfl
@[simp] theorem withOut_echoMatch (r : Role) (v : Bool) (s : State) : (s.withOut r v).echoMatch = s.echoMatch := rfl
@[simp] theorem withOut_swdOk (r : Role) (v : Bool) (s : State) : (s.withOut r v).swdOk = s.swdOk := rfl
@[simp] theorem withOut_swdParity (r : Role) (v : Bool) (s : State) : (s.withOut r v).swdParity = s.swdParity := rfl
@[simp] theorem withOut_swdAck (r : Role) (v : Bool) (s : State) : (s.withOut r v).swdAck = s.swdAck := rfl
@[simp] theorem withOut_sbit (r : Role) (v : Bool) (s : State) : (s.withOut r v).sbit = s.sbit := rfl
@[simp] theorem withOut_jbound (r : Role) (v : Bool) (s : State) : (s.withOut r v).jbound = s.jbound := rfl
@[simp] theorem withOut_sbound (r : Role) (v : Bool) (s : State) : (s.withOut r v).sbound = s.sbound := rfl
@[simp] theorem withOut_tapShadow (r : Role) (v : Bool) (s : State) : (s.withOut r v).tapShadow = s.tapShadow := rfl
@[simp] theorem withOut_pat (r : Role) (v : Bool) (s : State) : (s.withOut r v).pat = s.pat := rfl
@[simp] theorem withOut_acc (r : Role) (v : Bool) (s : State) : (s.withOut r v).acc = s.acc := rfl
@[simp] theorem withOut_cnt (r : Role) (v : Bool) (s : State) : (s.withOut r v).cnt = s.cnt := rfl
@[simp] theorem withOut_cand (r : Role) (v : Bool) (s : State) : (s.withOut r v).cand = s.cand := rfl
@[simp] theorem withOut_linecfg (r : Role) (v : Bool) (s : State) : (s.withOut r v).linecfg = s.linecfg := rfl
@[simp] theorem withOut_pinmapJtag (r : Role) (v : Bool) (s : State) : (s.withOut r v).pinmapJtag = s.pinmapJtag := rfl
@[simp] theorem withOut_pinmapAux (r : Role) (v : Bool) (s : State) : (s.withOut r v).pinmapAux = s.pinmapAux := rfl
@[simp] theorem withOut_swdIdcode (r : Role) (v : Bool) (s : State) : (s.withOut r v).swdIdcode = s.swdIdcode := rfl
@[simp] theorem withOut_idbuf (r : Role) (v : Bool) (s : State) : (s.withOut r v).idbuf = s.idbuf := rfl
@[simp] theorem withOut_hist (r : Role) (v : Bool) (s : State) : (s.withOut r v).hist = s.hist := rfl
@[simp] theorem withOut_activity (r : Role) (v : Bool) (s : State) : (s.withOut r v).activity = s.activity := rfl
@[simp] theorem withOut_resets (r : Role) (v : Bool) (s : State) : (s.withOut r v).resets = s.resets := rfl
@[simp] theorem withOut_inputs (r : Role) (v : Bool) (s : State) : (s.withOut r v).inputs = s.inputs := rfl
@[simp] theorem withOut_replies (r : Role) (v : Bool) (s : State) : (s.withOut r v).replies = s.replies := rfl
@[simp] theorem withOut_role (r : Role) (v : Bool) (s : State) (x : Role) : (s.withOut r v).role x = s.role x := rfl
@[simp] theorem withOut_trstEn (r : Role) (v : Bool) (s : State) : (s.withOut r v).trstEn = s.trstEn := rfl
@[simp] theorem withOut_pull (r : Role) (v : Bool) (s : State) : (s.withOut r v).pull = s.pull := rfl
@[simp] theorem withOut_owns (r : Role) (v : Bool) (s : State) (x : Nat) : (s.withOut r v).owns x = s.owns x := rfl
@[simp] theorem withOut_candLines (r : Role) (v : Bool) (s : State) : (s.withOut r v).candLines = s.candLines := rfl
@[simp] theorem withOut_env (r : Role) (v : Bool) (s : State) : (s.withOut r v).env = s.env := rfl
@[simp] theorem withOut_jtagLines (r : Role) (v : Bool) (s : State) : (s.withOut r v).jtagLines = s.jtagLines := rfl
@[simp] theorem withOut_swdLines (r : Role) (v : Bool) (s : State) : (s.withOut r v).swdLines = s.swdLines := rfl
@[simp] theorem withOut_jtagBindable (r : Role) (v : Bool) (s : State) : (s.withOut r v).jtagBindable = s.jtagBindable := rfl
@[simp] theorem withOut_swdBindable (r : Role) (v : Bool) (s : State) : (s.withOut r v).swdBindable = s.swdBindable := rfl

@[simp] theorem sample_bit (env : Oracle) (r : Role) (s : State) : (sample env r s).1 = env s.hist (s.role r) := rfl
@[simp] theorem delay_eq (s : State) : delay s = s := rfl
@[simp] theorem raiseError_eq (c : Code) (s : State) : raiseError c s = finish c s := rfl

end Sys2Proof.Machine
end

