-- ==== Sys2Proof/Laws/Jtag.lean ====
section
/-! SUPPORT. What every JTAG sequence can do, said once (`JBlock`), and the same for the building blocks R100 to R105
and the loops of R130 to R133. -/

namespace Sys2Proof.Machine

/-! ### Replacing the level of one line -/

/-- Line `i` of a line file with its level replaced. -/
def setOut (i : Nat) (v : Bool) (ls : List Line) : List Line :=
  ls.set i { ls.getD i Line.atReset with out := v }

theorem withOut_lines_eq (r : Role) (v : Bool) (s : State) : (s.withOut r v).lines = setOut (s.role r) v s.lines := rfl

@[simp] theorem setOut_length (i : Nat) (v : Bool) (ls : List Line) : (setOut i v ls).length = ls.length := by
  simp [setOut]

theorem setOut_setOut (i : Nat) (v w : Bool) (ls : List Line) : setOut i w (setOut i v ls) = setOut i w ls := by
  by_cases h : i < ls.length
  · simp [setOut, List.getD, h]
  · simp [setOut, List.set_eq_of_length_le (Nat.le_of_not_lt h)]

theorem getD_setOut_ne {i j : Nat} (h : i ≠ j) (v : Bool) (ls : List Line) (d : Line) :
    (setOut i v ls).getD j d = ls.getD j d := by
  simp [setOut, List.getD, h]

theorem setOut_comm {i j : Nat} (h : i ≠ j) (v w : Bool) (ls : List Line) :
    setOut i v (setOut j w ls) = setOut j w (setOut i v ls) := by
  unfold setOut
  have e1 := getD_setOut_ne (Ne.symm h) w ls Line.atReset
  have e2 := getD_setOut_ne h v ls Line.atReset
  unfold setOut at e1 e2
  rw [e1, e2, List.set_comm _ _ h]

theorem setOut_self {i : Nat} {ls : List Line} {v : Bool} (h : (ls.getD i Line.atReset).out = v) :
    setOut i v ls = ls := by
  unfold setOut
  rw [← h]
  by_cases hi : i < ls.length
  · have e : ls.getD i Line.atReset = ls[i] := by simp [List.getD, hi]
    rw [e]; exact List.set_getElem_self hi
  · rw [List.set_eq_of_length_le (Nat.le_of_not_lt hi)]

theorem getD_setOut_self {i : Nat} {ls : List Line} (h : i < ls.length) (v : Bool) :
    ((setOut i v ls).getD i Line.atReset).out = v := by
  simp [setOut, List.getD, h]

/-! ### Traces -/

theorem answered_append (env : Oracle) : ∀ (es fs h : List Event),
    answered env h (es ++ fs) ↔ answered env h es ∧ answered env (es.reverse ++ h) fs
  | [], fs, h => by simp [answered]
  | e :: es, fs, h => by simp [answered, answered_append env es fs, and_assoc]

theorem sampledBits_append : ∀ es fs : List Event, sampledBits (es ++ fs) = sampledBits es ++ sampledBits fs
  | [], fs => rfl
  | e :: es, fs => by cases e <;> simp [sampledBits, sampledBits_append es fs]

theorem getLastD_append {α : Type} (a b : List α) (d : α) : (a ++ b).getLastD d = b.getLastD (a.getLastD d) := by
  cases b using List.reverseRecOn with
  | nil => simp
  | append_singleton b x => simp [← List.append_assoc]

/-! ### What every JTAG sequence does -/

/-- The JTAG roles are bound to distinct lines of the line file and TCK rests low. -/
structure JLive (s : State) : Prop where
  tck_lt : s.role .tck < s.lines.length
  tms_lt : s.role .tms < s.lines.length
  tdi_lt : s.role .tdi < s.lines.length
  tck_tms : s.role .tck ≠ s.role .tms
  tck_tdi : s.role .tck ≠ s.role .tdi
  tms_tdi : s.role .tms ≠ s.role .tdi
  tck_tdo : s.role .tck ≠ s.role .tdo
  tms_tdo : s.role .tms ≠ s.role .tdo
  tdi_tdo : s.role .tdi ≠ s.role .tdo
  trst_tck : s.trstEn = true → s.role .tck ≠ s.role .trst
  trst_tms : s.trstEn = true → s.role .tms ≠ s.role .trst
  trst_tdi : s.trstEn = true → s.role .tdi ≠ s.role .trst
  tck_low : (s.line (s.role .tck)).out = false

/-- `t` is `s` after a JTAG sequence: events `es` (of the given shape once sampled bits are masked), one pulse for each
TMS level of `levels`, and then TMS at level `a` and TDI at level `d`. -/
structure JBlock (env : Oracle) (s t : State) (es shape : List Event) (levels : List Bool) (a d : Bool) : Prop where
  frame : t = { s with
    lines := setOut (s.role .tdi) d (setOut (s.role .tms) a s.lines)
    hist := es.reverse ++ s.hist
    sbit := (sampledBits es).getLastD s.sbit
    tapShadow := shadowAfter s levels }
  ans : answered env s.hist es
  masked : es.map Event.masked = shape
  count : (sampledBits es).length = levels.length

theorem Inv_jlive {s : State} (h : s.Inv) (hb : s.jbound = true) : JLive s := by
  obtain ⟨⟨_, hl, _⟩, _, _, ⟨hj, _⟩⟩ := h
  obtain ⟨_, hbd, _, hlow, _⟩ := hj hb
  simp only [State.jtagBindable, Bool.and_eq_true, decide_eq_true_eq, List.all_eq_true] at hbd
  obtain ⟨hn, hall⟩ := hbd
  have own : ∀ l ∈ s.jtagLines, l < s.lines.length := by
    intro l hl'
    have := hall l hl'
    simp only [State.owns, Bool.and_eq_true, decide_eq_true_eq] at this
    omega
  have base : ∀ r ∈ [Role.tck, .tms, .tdi, .tdo], s.role r ∈ s.jtagLines := by
    intro r hr
    simp only [List.mem_cons, List.not_mem_nil, or_false] at hr
    rcases hr with rfl | rfl | rfl | rfl <;> simp [State.jtagLines]
  unfold State.jtagLines at hn
  refine ⟨own _ (base _ (by simp)), own _ (base _ (by simp)), own _ (base _ (by simp)), ?_, ?_, ?_, ?_, ?_, ?_, ?_, ?_, ?_, hlow⟩
  all_goals first
    | (intro he; simp [he] at hn; simp_all)
    | (simp at hn; tauto)

section Blocks
variable {env : Oracle} {s t u : State}

theorem JBlock_role {es shape : List Event} {levels : List Bool} {a d : Bool}
    (h : JBlock env s t es shape levels a d) (r : Role) : t.role r = s.role r := by
  rw [h.frame]; cases r <;> rfl

theorem JBlock_trstEn {es shape : List Event} {levels : List Bool} {a d : Bool}
    (h : JBlock env s t es shape levels a d) : t.trstEn = s.trstEn := by rw [h.frame]; rfl

theorem JBlock_line {es shape : List Event} {levels : List Bool} {a d : Bool} (h : JBlock env s t es shape levels a d)
    {l : Nat} (h1 : s.role .tms ≠ l) (h2 : s.role .tdi ≠ l) : t.line l = s.line l := by
  rw [h.frame]; simp only [State.line]
  rw [getD_setOut_ne h2, getD_setOut_ne h1]

theorem JBlock_tms {es shape : List Event} {levels : List Bool} {a d : Bool} (hs : JLive s)
    (h : JBlock env s t es shape levels a d) : (t.line (t.role .tms)).out = a := by
  rw [JBlock_role h, h.frame]; simp only [State.line]
  rw [getD_setOut_ne (Ne.symm hs.tms_tdi)]
  exact getD_setOut_self hs.tms_lt a

theorem JBlock_tdi {es shape : List Event} {levels : List Bool} {a d : Bool} (hs : JLive s)
    (h : JBlock env s t es shape levels a d) : (t.line (t.role .tdi)).out = d := by
  rw [JBlock_role h, h.frame]; simp only [State.line]
  exact getD_setOut_self (by simpa using hs.tdi_lt) d

theorem JBlock_trst {es shape : List Event} {levels : List Bool} {a d : Bool} (hs : JLive s)
    (h : JBlock env s t es shape levels a d) : t.trstAsserted = s.trstAsserted := by
  unfold State.trstAsserted
  rw [JBlock_trstEn h, JBlock_role h]
  by_cases he : s.trstEn = true
  · rw [JBlock_line h (hs.trst_tms he) (hs.trst_tdi he)]
  · simp [he]

theorem JBlock_live {es shape : List Event} {levels : List Bool} {a d : Bool} (hs : JLive s)
    (h : JBlock env s t es shape levels a d) : JLive t := by
  have hl : t.lines.length = s.lines.length := by rw [h.frame]; simp
  constructor <;> simp only [JBlock_role h, JBlock_trstEn h, hl]
  · exact hs.tck_lt
  · exact hs.tms_lt
  · exact hs.tdi_lt
  · exact hs.tck_tms
  · exact hs.tck_tdi
  · exact hs.tms_tdi
  · exact hs.tck_tdo
  · exact hs.tms_tdo
  · exact hs.tdi_tdo
  · exact hs.trst_tck
  · exact hs.trst_tms
  · exact hs.trst_tdi
  · rw [JBlock_line h (Ne.symm hs.tck_tms) (Ne.symm hs.tck_tdi)]; exact hs.tck_low

theorem foldl_const_congr {f g : BitVec 16 → Bool → BitVec 16} (h : f = g) (l : List Bool) (x : BitVec 16) :
    l.foldl f x = l.foldl g x := by rw [h]

/-- Sequences compose. -/
theorem JBlock_trans {es fs shape shape' : List Event} {ls ms : List Bool} {a d a' d' : Bool} (hs : JLive s)
    (h : JBlock env s t es shape ls a d) (k : JBlock env t u fs shape' ms a' d') :
    JBlock env s u (es ++ fs) (shape ++ shape') (ls ++ ms) a' d' := by
  constructor
  · have hl : t.lines = setOut (s.role .tdi) d (setOut (s.role .tms) a s.lines) := by rw [h.frame]
    have hh : t.hist = es.reverse ++ s.hist := by rw [h.frame]
    have hb : t.sbit = (sampledBits es).getLastD s.sbit := by rw [h.frame]
    have ht : t.tapShadow = shadowAfter s ls := by rw [h.frame]
    have e := k.frame
    rw [JBlock_role h, JBlock_role h, hl, hh, hb] at e
    have esh : shadowAfter t ms = shadowAfter s (ls ++ ms) := by
      unfold shadowAfter
      rw [List.foldl_append, JBlock_trst hs h, ht]
      rfl
    rw [esh] at e
    rw [e]
    have hlines : setOut (s.role .tdi) d' (setOut (s.role .tms) a' (setOut (s.role .tdi) d (setOut (s.role .tms) a s.lines)))
        = setOut (s.role .tdi) d' (setOut (s.role .tms) a' s.lines) := by
      rw [setOut_comm hs.tms_tdi, setOut_setOut, setOut_setOut]
    rw [hlines, h.frame]
    simp [sampledBits_append]
  · rw [answered_append]
    refine ⟨h.ans, ?_⟩
    have := k.ans
    rwa [h.frame] at this
  · simp [h.masked, k.masked]
  · simp [sampledBits_append, h.count, k.count]

/-- `Drive(TMS, v)` (R14). -/
theorem drive_tms_block (env : Oracle) (hs : JLive s) (v : Bool) :
    JBlock env s (drive .tms v s) [.drive (s.role .tms) v] [.drive (s.role .tms) v] [] v
      (s.line (s.role .tdi)).out := by
  constructor
  · have : setOut (s.role .tdi) (s.line (s.role .tdi)).out (setOut (s.role .tms) v s.lines) = setOut (s.role .tms) v s.lines := by
      apply setOut_self
      rw [getD_setOut_ne hs.tms_tdi]; rfl
    rw [this]; rfl
  · simp [answered]
  · rfl
  · rfl

/-- `Drive(TDI, v)` (R14). -/
theorem drive_tdi_block (env : Oracle) (s : State) (v : Bool) :
    JBlock env s (drive .tdi v s) [.drive (s.role .tdi) v] [.drive (s.role .tdi) v] []
      (s.line (s.role .tms)).out v := by
  constructor
  · have : setOut (s.role .tms) (s.line (s.role .tms)).out s.lines = s.lines := setOut_self rfl
    rw [this]; rfl
  · simp [answered]
  · rfl
  · rfl

/-- The bit a `Pulse` returns (R100). -/
theorem pulse_bit (env : Oracle) (s : State) :
    (pulse env s).1 = env (.drive (s.role .tck) true :: s.hist) (s.role .tdo) := rfl

/-- `Pulse()` (R100): no line ends changed. -/
theorem pulse_state (env : Oracle) (hs : JLive s) : (pulse env s).2 = { s with
    hist := .drive (s.role .tck) false :: .sample (s.role .tdo) (pulse env s).1 :: .drive (s.role .tck) true :: s.hist
    sbit := (pulse env s).1
    tapShadow := shadowAfter s [(s.line (s.role .tms)).out] } := by
  have hl : setOut (s.role .tck) false (setOut (s.role .tck) true s.lines) = s.lines := by
    rw [setOut_setOut]; exact setOut_self hs.tck_low
  have e : (pulse env s).2 = { s with
      lines := setOut (s.role .tck) false (setOut (s.role .tck) true s.lines)
      hist := .drive (s.role .tck) false :: .sample (s.role .tdo) (pulse env s).1 :: .drive (s.role .tck) true :: s.hist
      sbit := (pulse env s).1
      tapShadow := (State.pulseShadow { s with lines := setOut (s.role .tck) false (setOut (s.role .tck) true s.lines) }
        (s.line (s.role .tms)).out) } := rfl
  rw [e, hl]
  rfl

theorem pulse_block (env : Oracle) (hs : JLive s) :
    JBlock env s (pulse env s).2
      [.drive (s.role .tck) true, .sample (s.role .tdo) (pulse env s).1, .drive (s.role .tck) false]
      (pulseShape s) [(s.line (s.role .tms)).out] (s.line (s.role .tms)).out (s.line (s.role .tdi)).out := by
  constructor
  · rw [pulse_state env hs]
    have h1 : setOut (s.role .tms) (s.line (s.role .tms)).out s.lines = s.lines := setOut_self rfl
    have h2 : setOut (s.role .tdi) (s.line (s.role .tdi)).out s.lines = s.lines := setOut_self rfl
    rw [h1, h2]; rfl
  · simp [answered, pulse_bit]
  · rfl
  · rfl

end Blocks
end Sys2Proof.Machine

/-! ### Loops -/

namespace Sys2Proof.Machine
section Loops
variable {env : Oracle} {s t : State}

theorem JBlock_refl (env : Oracle) (s : State) :
    JBlock env s s [] [] [] (s.line (s.role .tms)).out (s.line (s.role .tdi)).out := by
  constructor
  · have h1 : setOut (s.role .tms) (s.line (s.role .tms)).out s.lines = s.lines := setOut_self rfl
    have h2 : setOut (s.role .tdi) (s.line (s.role .tdi)).out s.lines = s.lines := setOut_self rfl
    rw [h1, h2]; rfl
  · simp [answered]
  · rfl
  · rfl

/-- A block under equal indices. -/
theorem JBlock_cast {t' : State} {es shape shape' : List Event} {ls ls' : List Bool} {a a' d d' : Bool}
    (h : JBlock env s t es shape ls a d) (ht : t = t') (hsh : shape = shape') (hl : ls = ls') (ha : a = a') (hd : d = d') :
    JBlock env s t' es shape' ls' a' d' := by
  subst ht hsh hl ha hd; exact h

/-- The shapes depend on the roles only. -/
theorem pulseShape_congr (h : ∀ r, t.role r = s.role r) : pulseShape t = pulseShape s := by simp [pulseShape, h]

theorem walkShape_congr (h : ∀ r, t.role r = s.role r) (ts : List Bool) : walkShape t ts = walkShape s ts := by
  simp [walkShape, pulseShape_congr h, h]

theorem pulsesShape_congr (h : ∀ r, t.role r = s.role r) (n : Nat) : pulsesShape t n = pulsesShape s n := by
  simp [pulsesShape, pulseShape_congr h]

theorem shiftShape_congr (h : ∀ r, t.role r = s.role r) : ∀ bs, shiftShape t bs = shiftShape s bs
  | [] => rfl
  | [b] => by simp [shiftShape, pulseShape_congr h, h]
  | b :: c :: bs => by simp [shiftShape, pulseShape_congr h, h, shiftShape_congr h (c :: bs)]

/-- `TmsSeq` (R101). -/
theorem tmsSeq_block (env : Oracle) : ∀ (ts : List Bool) {s : State}, JLive s →
    ∃ es, JBlock env s (tmsSeq env ts s) es (walkShape s ts) ts (ts.getLastD (s.line (s.role .tms)).out)
      (s.line (s.role .tdi)).out
  | [], s, _ => ⟨[], JBlock_refl env s⟩
  | v :: ts, s, hs => by
    have h1 := drive_tms_block env hs v
    have l1 := JBlock_live hs h1
    have h2 := pulse_block env l1
    rw [JBlock_tms hs h1, JBlock_tdi hs h1, pulseShape_congr (JBlock_role h1)] at h2
    have h12 := JBlock_trans hs h1 h2
    have l2 := JBlock_live hs h12
    obtain ⟨es, h3⟩ := tmsSeq_block env ts l2
    rw [JBlock_tms hs h12, JBlock_tdi hs h12, walkShape_congr (JBlock_role h12)] at h3
    exact ⟨_, JBlock_cast (JBlock_trans hs h12 h3) rfl (by simp [walkShape]) (by simp)
      (by cases ts <;> rfl) rfl⟩

/-- `repeat n times: Pulse()`. -/
theorem pulses_block (env : Oracle) : ∀ (n : Nat) {s : State}, JLive s →
    ∃ es, JBlock env s (pulses env n s) es (pulsesShape s n) (List.replicate n (s.line (s.role .tms)).out)
      (s.line (s.role .tms)).out (s.line (s.role .tdi)).out
  | 0, s, _ => ⟨[], JBlock_refl env s⟩
  | n + 1, s, hs => by
    have h1 := pulse_block env hs
    have l1 := JBlock_live hs h1
    obtain ⟨es, h2⟩ := pulses_block env n l1
    rw [JBlock_tms hs h1, JBlock_tdi hs h1, pulsesShape_congr (JBlock_role h1)] at h2
    exact ⟨_, JBlock_cast (JBlock_trans hs h1 h2) rfl (by simp [pulsesShape, List.replicate_succ])
      (by simp [List.replicate_succ]) rfl rfl⟩

/-- The fill that does not exit is plain pulses. -/
theorem flood_false (env : Oracle) : ∀ (n : Nat) (s : State), flood env false n s = pulses env n s
  | 0, _ => rfl
  | n + 1, s => by simp [flood, pulses, driveExit, flood_false env n]

/-- The fill that exits on its last bit (R130, R133). -/
theorem flood_block (env : Oracle) : ∀ (n : Nat) {s : State}, JLive s →
    ∃ es, JBlock env s (flood env true (n + 1) s) es (floodExitShape s (n + 1))
      (List.replicate n (s.line (s.role .tms)).out ++ [true]) true (s.line (s.role .tdi)).out
  | 0, s, hs => by
    have h1 := drive_tms_block env hs true
    have l1 := JBlock_live hs h1
    have h2 := pulse_block env l1
    rw [JBlock_tms hs h1, JBlock_tdi hs h1, pulseShape_congr (JBlock_role h1)] at h2
    exact ⟨_, JBlock_cast (JBlock_trans hs h1 h2) (by simp [flood, driveExit]) (by simp [floodExitShape, pulsesShape])
      (by simp) rfl rfl⟩
  | n + 1, s, hs => by
    have h1 := pulse_block env hs
    have l1 := JBlock_live hs h1
    obtain ⟨es, h2⟩ := flood_block env n l1
    have e : floodExitShape (pulse env s).2 (n + 1) = floodExitShape s (n + 1) := by
      simp [floodExitShape, pulsesShape_congr (JBlock_role h1), pulseShape_congr (JBlock_role h1), JBlock_role h1]
    rw [JBlock_tms hs h1, JBlock_tdi hs h1, e] at h2
    have e2 : flood env true (n + 1 + 1) s = flood env true (n + 1) (pulse env s).2 := by
      rw [flood]; simp [driveExit]
    exact ⟨_, JBlock_cast (JBlock_trans hs h1 h2) e2.symm (by simp [floodExitShape, pulsesShape, List.replicate_succ])
      (by simp [List.replicate_succ]) rfl rfl⟩

/-- The loop of `ShiftArray` (R105): the events, and the accumulator as a fold over the sampled bits. -/
theorem shiftLoop_block (env : Oracle) : ∀ (n : Nat) (q acc : Word) {s : State}, JLive s →
    ∃ es, JBlock env s (shiftLoop env n q acc s).2 es (shiftShape s (sentBits q n))
        (if n = 0 then [] else List.replicate (n - 1) (s.line (s.role .tms)).out ++ [true])
        (if n = 0 then (s.line (s.role .tms)).out else true)
        (if n = 0 then (s.line (s.role .tdi)).out else q.getLsbD (n - 1)) ∧
      (shiftLoop env n q acc s).1 = (sampledBits es).foldl shiftIn acc
  | 0, q, acc, s, _ => ⟨[], JBlock_refl env s, rfl⟩
  | 1, q, acc, s, hs => by
    have h1 := drive_tms_block env hs true
    have l1 := JBlock_live hs h1
    have h2 := drive_tdi_block env (drive .tms true s) (q.getLsbD 0)
    rw [JBlock_tms hs h1] at h2
    have h12 := JBlock_trans hs h1 h2
    have l2 := JBlock_live hs h12
    have h3 := pulse_block env l2
    rw [JBlock_tms hs h12, JBlock_tdi hs h12, pulseShape_congr (JBlock_role h12)] at h3
    exact ⟨_, JBlock_cast (JBlock_trans hs h12 h3) (by simp [shiftLoop, driveExit]) (by simp [sentBits, shiftShape])
      (by simp) rfl rfl, by simp [shiftLoop, driveExit, sampledBits]⟩
  | n + 2, q, acc, s, hs => by
    have h1 := drive_tdi_block env s (q.getLsbD 0)
    have l1 := JBlock_live hs h1
    have h2 := pulse_block env l1
    rw [JBlock_tms hs h1, JBlock_tdi hs h1, pulseShape_congr (JBlock_role h1)] at h2
    have h12 := JBlock_trans hs h1 h2
    have l2 := JBlock_live hs h12
    obtain ⟨es, h3, h4⟩ := shiftLoop_block env (n + 1) (q >>> 1) (shiftIn acc (pulse env (drive .tdi (q.getLsbD 0) s)).1) l2
    rw [JBlock_tms hs h12, JBlock_tdi hs h12, shiftShape_congr (JBlock_role h12)] at h3
    have h := JBlock_trans hs h12 h3
    have e : shiftLoop env (n + 1 + 1) q acc s =
        shiftLoop env (n + 1) (q >>> 1) (shiftIn acc (pulse env (drive .tdi (q.getLsbD 0) s)).1)
          (pulse env (drive .tdi (q.getLsbD 0) s)).2 := by
      rw [shiftLoop]; simp [driveExit]
    have es' : sentBits q (n + 2) = q.getLsbD 0 :: sentBits (q >>> 1) (n + 1) := by
      simp [sentBits, List.range_succ_eq_map (n := n + 1), Function.comp_def, Nat.add_comm]
    have es'' : sentBits (q >>> 1) (n + 1) = q.getLsbD 1 :: sentBits (q >>> 2) n := by
      simp only [sentBits, List.range_succ_eq_map (n := n), List.map_cons, List.map_map]
      simp [Function.comp_def, Nat.add_comm, Nat.add_left_comm]
    exact ⟨_, JBlock_cast h (by rw [e]) (by rw [es', es'']; simp [shiftShape])
      (by simp [List.replicate_succ]) (by simp) (by simp [Nat.add_comm]), by rw [e, h4]; simp [sampledBits]⟩

/-- `ShiftArray` (R105, R117). -/
theorem shiftArray_block (env : Oracle) (p : Word) (n : Nat) (hs : JLive s) :
    ∃ es, JBlock env s (shiftArray env p n s).2 es (shiftShape s (sentBits p n))
        (if n = 0 then [] else List.replicate (n - 1) (s.line (s.role .tms)).out ++ [true])
        (if n = 0 then (s.line (s.role .tms)).out else true)
        (if n = 0 then (s.line (s.role .tdi)).out else p.getLsbD (n - 1)) ∧
      (shiftArray env p n s).1 = (sampledBits es).foldl shiftIn 0#32 :=
  shiftLoop_block env n p 0#32 hs

/-- MSB-first accumulation keeps the last 32 bits, the last one in bit 0 (R117). -/
theorem foldl_shiftIn_getLsbD (bits : List Bool) (m : Nat) (hm : m < 32) :
    (bits.foldl shiftIn 0#32).getLsbD m = if m < bits.length then bits.getD (bits.length - 1 - m) false else false := by
  induction bits using List.reverseRecOn generalizing m with
  | nil => simp
  | append_singleton bits b ih =>
    rw [List.foldl_append]
    simp only [List.foldl_cons, List.foldl_nil, shiftIn, BitVec.getLsbD_or, BitVec.getLsbD_shiftLeft, BitVec.getLsbD_setWidth]
    cases m with
    | zero => simp
    | succ m =>
      have := ih m (by omega)
      simp only [hm, decide_true, Bool.true_and, Nat.add_sub_cancel, List.length_append, List.length_cons, List.length_nil]
      rw [this]
      by_cases h : m < bits.length
      · have h' : bits.length - (m + 1) = bits.length - 1 - m := by omega
        have h'' : bits.length - 1 - m < bits.length := by omega
        simp only [h, h', if_true, List.getD_append _ _ _ _ h'', Nat.zero_add, Nat.add_lt_add_iff_right]
        simp
      · simp [h, show ¬ m + 1 < bits.length + 1 by omega]

/-- Phase 3 of `JDETECT` (R130): `k` samples, the count grows by the zeros before the first 1. -/
theorem countZeros_block (env : Oracle) : ∀ (n c : Nat) {s : State}, JLive s →
    ∃ es k, JBlock env s (countZeros env n c s).2 es (pulsesShape s k) (List.replicate k (s.line (s.role .tms)).out)
        (s.line (s.role .tms)).out (s.line (s.role .tdi)).out ∧
      (countZeros env n c s).1 = c + leadingZeros (sampledBits es) ∧ (sampledBits es).length = k ∧
      k = min (leadingZeros (sampledBits es) + 1) n
  | 0, c, s, _ => ⟨[], 0, JBlock_refl env s, by simp [countZeros, leadingZeros, sampledBits], rfl, by simp⟩
  | n + 1, c, s, hs => by
    have h1 := pulse_block env hs
    by_cases hb : (pulse env s).1 = true
    · have e : countZeros env (n + 1) c s = (c, (pulse env s).2) := by simp [countZeros, hb]
      exact ⟨_, 1, JBlock_cast h1 (by rw [e]) (by simp [pulsesShape]) (by simp) rfl rfl,
        by rw [e]; simp [sampledBits, leadingZeros, hb], by simp [sampledBits], by simp [sampledBits, leadingZeros, hb]⟩
    · have hb' : (pulse env s).1 = false := by simpa using hb
      have l1 := JBlock_live hs h1
      obtain ⟨es, k, h2, h3, h4, h5⟩ := countZeros_block env n (c + 1) l1
      rw [JBlock_tms hs h1, JBlock_tdi hs h1, pulsesShape_congr (JBlock_role h1)] at h2
      have e : countZeros env (n + 1) c s = countZeros env n (c + 1) (pulse env s).2 := by
        rw [countZeros]; simp [hb']
      have h := JBlock_trans hs h1 h2
      unfold leadingZeros at h3 h5
      exact ⟨_, k + 1, JBlock_cast h (by rw [e]) (by simp [pulsesShape, List.replicate_succ])
        (by simp [List.replicate_succ]) rfl rfl,
        by rw [e, h3]; simp [sampledBits, leadingZeros, hb']; omega, by simp [sampledBits, h4],
        by simp [sampledBits, leadingZeros, hb']; omega⟩

/-- One word of `JIDS` (R132). -/
theorem pulseWord_block (env : Oracle) : ∀ (n : Nat) (w : Word) {s : State}, JLive s →
    ∃ es, JBlock env s (pulseWord env n w s).2 es (pulsesShape s n) (List.replicate n (s.line (s.role .tms)).out)
        (s.line (s.role .tms)).out (s.line (s.role .tdi)).out ∧
      (pulseWord env n w s).1 = (sampledBits es).foldl shiftIn w
  | 0, w, s, _ => ⟨[], JBlock_refl env s, rfl⟩
  | n + 1, w, s, hs => by
    have h1 := pulse_block env hs
    have l1 := JBlock_live hs h1
    obtain ⟨es, h2, h3⟩ := pulseWord_block env n (shiftIn w (pulse env s).1) l1
    rw [JBlock_tms hs h1, JBlock_tdi hs h1, pulsesShape_congr (JBlock_role h1)] at h2
    exact ⟨_, JBlock_cast (JBlock_trans hs h1 h2) (by simp [pulseWord]) (by simp [pulsesShape, List.replicate_succ])
      (by simp [List.replicate_succ]) rfl rfl, by simp [pulseWord, h3, sampledBits]⟩

/-- `bitrev32` (R12). -/
theorem bitrev32_getLsbD (x : Word) (i : Nat) (hi : i < 32) : (bitrev32 x).getLsbD i = x.getLsbD (31 - i) := by
  rw [bitrev32, BitVec.getLsbD_reverse, BitVec.getMsbD]
  simp [hi]

theorem bitrev32_bitrev32 (x : Word) : bitrev32 (bitrev32 x) = x := by
  simp [bitrev32]

/-- The words of `JIDS` (R132): bit `j` of word `k` is the bit sampled at pulse `32 k + j`. -/
theorem readWords_block (env : Oracle) : ∀ (n : Nat) {s : State}, JLive s →
    ∃ es, JBlock env s (readWords env n s).2 es (pulsesShape s (32 * n)) (List.replicate (32 * n) (s.line (s.role .tms)).out)
        (s.line (s.role .tms)).out (s.line (s.role .tdi)).out ∧
      (readWords env n s).1.length = n ∧
      ∀ k j, k < n → j < 32 →
        ((readWords env n s).1.getD k 0#32).getLsbD j = (sampledBits es).getD (32 * k + j) false
  | 0, s, _ => ⟨[], JBlock_refl env s, rfl, by intro k j h; omega⟩
  | n + 1, s, hs => by
    obtain ⟨e1, h1, hw⟩ := pulseWord_block env 32 0#32 hs
    have l1 := JBlock_live hs h1
    obtain ⟨e2, h2, hl, hk⟩ := readWords_block env n l1
    rw [JBlock_tms hs h1, JBlock_tdi hs h1, pulsesShape_congr (JBlock_role h1)] at h2
    have h := JBlock_trans hs h1 h2
    have c1 : (sampledBits e1).length = 32 := by rw [h1.count]; simp
    refine ⟨e1 ++ e2, ?_, ?_, ?_⟩
    · have e : pulsesShape s 32 ++ pulsesShape s (32 * n) = pulsesShape s (32 * (n + 1)) := by
        simp only [pulsesShape, ← List.flatten_append]
        rw [List.replicate_append_replicate, show 32 + 32 * n = 32 * (n + 1) by ring]
      have e' : ∀ b : Bool, List.replicate 32 b ++ List.replicate (32 * n) b = List.replicate (32 * (n + 1)) b := by
        intro b; rw [List.replicate_append_replicate, show 32 + 32 * n = 32 * (n + 1) by ring]
      rw [e, e'] at h
      exact h
    · simp [readWords, hl]
    · intro k j hkn hj
      rw [sampledBits_append]
      cases k with
      | zero =>
        simp only [readWords, List.getD_cons_zero]
        rw [bitrev32_getLsbD _ _ hj, hw, foldl_shiftIn_getLsbD _ _ (by omega), c1]
        rw [if_pos (by omega), show 32 - 1 - (31 - j) = j by omega]
        simp [List.getElem?_append, c1, hj]
      | succ k =>
        simp only [readWords, List.getD_cons_succ]
        rw [hk k j (by omega) hj]
        simp [List.getElem?_append, c1, show ¬ 32 * (k + 1) + j < 32 by omega, show 32 * (k + 1) + j - 32 = 32 * k + j by omega]

end Loops
end Sys2Proof.Machine

/-! ### What a block leaves, and longer blocks -/

namespace Sys2Proof.Machine
section Longer
variable {env : Oracle} {s t : State} {es shape : List Event} {ls : List Bool} {a d : Bool}

theorem JBlock_hist (h : JBlock env s t es shape ls a d) : t.hist = es.reverse ++ s.hist := by rw [h.frame]

theorem JBlock_trace (h : JBlock env s t es shape ls a d) : t.trace = s.trace ++ es := by
  simp [State.trace, JBlock_hist h]

theorem JBlock_params (h : JBlock env s t es shape ls a d) : t.params = s.params := by rw [h.frame]

theorem JBlock_pat (h : JBlock env s t es shape ls a d) : t.pat = s.pat := by rw [h.frame]

/-- A block and then `Finish` (R15). -/
theorem JBlock_finish (h : JBlock env s t es shape ls a d) (c : Code) : finish c t = { s with
    lines := setOut (s.role .tdi) d (setOut (s.role .tms) a s.lines)
    hist := es.reverse ++ s.hist
    sbit := (sampledBits es).getLastD s.sbit
    tapShadow := shadowAfter s ls
    err := c, activity := .idle } := by
  conv_lhs => rw [h.frame]
  rfl

/-- The line file when TDI is left alone. -/
theorem setOut_tdi_keep (hs : JLive s) (v : Bool) :
    setOut (s.role .tdi) (s.line (s.role .tdi)).out (setOut (s.role .tms) v s.lines) = (s.withOut .tms v).lines :=
  setOut_self (by rw [getD_setOut_ne hs.tms_tdi]; rfl)

/-- A block and then `Drive(TDI, v)`. -/
theorem JBlock_drive_tdi (env : Oracle) (hs : JLive s) (h : JBlock env s t es shape ls a d) (v : Bool) :
    JBlock env s (drive .tdi v t) (es ++ [.drive (s.role .tdi) v]) (shape ++ [.drive (s.role .tdi) v]) ls a v := by
  have h2 := drive_tdi_block env t v
  rw [JBlock_tms hs h, JBlock_role h] at h2
  exact JBlock_cast (JBlock_trans hs h h2) rfl rfl (by simp) rfl rfl

/-- A block and then `TmsSeq`. -/
theorem JBlock_tmsSeq (env : Oracle) (ts : List Bool) (hs : JLive s) (h : JBlock env s t es shape ls a d) :
    ∃ fs, JBlock env s (tmsSeq env ts t) (es ++ fs) (shape ++ walkShape s ts) (ls ++ ts) (ts.getLastD a) d ∧
      (sampledBits fs).length = ts.length := by
  obtain ⟨e1, h1⟩ := tmsSeq_block env ts (JBlock_live hs h)
  have hc := h1.count
  rw [JBlock_tdi hs h, JBlock_tms hs h, walkShape_congr (JBlock_role h)] at h1
  exact ⟨e1, JBlock_trans hs h h1, hc⟩

/-- A block and then plain pulses. -/
theorem JBlock_pulses (env : Oracle) (n : Nat) (hs : JLive s) (h : JBlock env s t es shape ls a d) :
    ∃ fs, JBlock env s (pulses env n t) (es ++ fs) (shape ++ pulsesShape s n) (ls ++ List.replicate n a) a d ∧
      (sampledBits fs).length = n := by
  obtain ⟨e1, h1⟩ := pulses_block env n (JBlock_live hs h)
  have hc := h1.count
  rw [JBlock_tdi hs h, JBlock_tms hs h, pulsesShape_congr (JBlock_role h)] at h1
  exact ⟨e1, JBlock_trans hs h h1, by simpa using hc⟩

/-- `ACC` written before a walk is `ACC` written after it. -/
theorem tmsSeq_acc (env : Oracle) (x : Word) : ∀ (ts : List Bool) (s : State),
    tmsSeq env ts { s with acc := x } = { tmsSeq env ts s with acc := x }
  | [], _ => rfl
  | t :: ts, s => by
    have e : tmsSeq env (t :: ts) { s with acc := x } = tmsSeq env ts { (pulse env (drive .tms t s)).2 with acc := x } := rfl
    rw [e, tmsSeq_acc env x ts]; rfl

/-- `IDBUF` written before a walk is `IDBUF` written after it (log 13). -/
theorem tmsSeq_idbuf (env : Oracle) (x : List Word) : ∀ (ts : List Bool) (s : State),
    tmsSeq env ts { s with idbuf := x } = { tmsSeq env ts s with idbuf := x }
  | [], _ => rfl
  | t :: ts, s => by
    have e : tmsSeq env (t :: ts) { s with idbuf := x } =
        tmsSeq env ts { (pulse env (drive .tms t s)).2 with idbuf := x } := rfl
    rw [e, tmsSeq_idbuf env x ts]; rfl

end Longer

/-! ### Clock pulses of a shape (R216) -/

theorem clockEdges_masked (l : Nat) (es : List Event) : clockEdges l (es.map Event.masked) = clockEdges l es := by
  unfold clockEdges
  rw [List.countP_map]
  congr 1
  funext e
  cases e <;> simp [Event.masked, Function.comp]

theorem clockEdges_append (l : Nat) (a b : List Event) : clockEdges l (a ++ b) = clockEdges l a + clockEdges l b := by
  simp [clockEdges]

section Edges
variable {s : State}

theorem clockEdges_tms (hs : JLive s) (v : Bool) (es : List Event) :
    clockEdges (s.role .tck) (.drive (s.role .tms) v :: es) = clockEdges (s.role .tck) es := by
  simp [clockEdges, Ne.symm hs.tck_tms]

theorem clockEdges_tdi (hs : JLive s) (v : Bool) (es : List Event) :
    clockEdges (s.role .tck) (.drive (s.role .tdi) v :: es) = clockEdges (s.role .tck) es := by
  simp [clockEdges, Ne.symm hs.tck_tdi]

theorem clockEdges_pulse (s : State) : clockEdges (s.role .tck) (pulseShape s) = 1 := by
  simp [clockEdges, pulseShape]

theorem clockEdges_walk (hs : JLive s) : ∀ ts, clockEdges (s.role .tck) (walkShape s ts) = ts.length
  | [] => rfl
  | t :: ts => by
    have : walkShape s (t :: ts) = .drive (s.role .tms) t :: (pulseShape s ++ walkShape s ts) := by simp [walkShape]
    rw [this, clockEdges_tms hs, clockEdges_append, clockEdges_pulse, clockEdges_walk hs ts]
    simp; omega

theorem clockEdges_pulses (s : State) : ∀ n, clockEdges (s.role .tck) (pulsesShape s n) = n
  | 0 => rfl
  | n + 1 => by
    have : pulsesShape s (n + 1) = pulseShape s ++ pulsesShape s n := by simp [pulsesShape, List.replicate_succ]
    rw [this, clockEdges_append, clockEdges_pulse, clockEdges_pulses s n]; omega

theorem clockEdges_shift (hs : JLive s) : ∀ bs, clockEdges (s.role .tck) (shiftShape s bs) = bs.length
  | [] => rfl
  | [b] => by rw [shiftShape, clockEdges_tms hs, clockEdges_tdi hs, clockEdges_pulse]; rfl
  | b :: c :: bs => by
    have : shiftShape s (b :: c :: bs) = .drive (s.role .tdi) b :: (pulseShape s ++ shiftShape s (c :: bs)) := by
      simp [shiftShape]
    rw [this, clockEdges_tdi hs, clockEdges_append, clockEdges_pulse, clockEdges_shift hs (c :: bs)]
    simp; omega

end Edges
end Sys2Proof.Machine
end

