-- ==== Sys2Proof/Laws/LineControl.lean ====
section
/-! SUPPORT. What `makeInputs` and the candidate line list can do (R91 to R93). -/

namespace Sys2Proof.Machine

/-- The loops of R91 to R93 change the line file and the trace only. -/
theorem makeInputs_frame : ∀ (ls : List Nat) (s : State),
    makeInputs ls s = { s with
      lines := (makeInputs ls s).lines
      hist := (ls.map (fun l => Event.cfg l .input none)).reverse ++ s.hist }
  | [], s => rfl
  | l :: ls, s => by
    rw [makeInputs, makeInputs_frame ls]
    simp [cfg]

@[simp] theorem makeInputs_length : ∀ (ls : List Nat) (s : State), (makeInputs ls s).lines.length = s.lines.length
  | [], _ => rfl
  | l :: ls, s => by rw [makeInputs, makeInputs_length ls]; simp

/-- Line `l` after `Cfg` of line `k`. -/
theorem cfg_line (k l : Nat) (d : Dir) (v : Option Bool) (s : State) (h : k < s.lines.length) :
    (cfg k d v s).line l = if k = l then { dir := d, pull := s.pull, out := v.getD (s.line l).out } else s.line l := by
  by_cases e : k = l
  · subst e; simp [State.line, List.getD, h]
  · simp [State.line, List.getD, e]

/-- Each listed line becomes an input with the configured pull and keeps its level (R91). -/
theorem makeInputs_line : ∀ (ls : List Nat) (s : State) (l : Nat), (∀ k ∈ ls, k < s.lines.length) →
    (makeInputs ls s).line l =
      if l ∈ ls then { dir := .input, pull := s.pull, out := (s.line l).out } else s.line l
  | [], _, _, _ => rfl
  | k :: ks, s, l, h => by
    have hk : k < s.lines.length := h k (by simp)
    rw [makeInputs, makeInputs_line ks _ l (by intro j hj; simpa using h j (by simp [hj])), cfg_line k l _ _ s hk]
    by_cases e : k = l
    · simp [e]
    · by_cases m : l ∈ ks
      · simp [e, m]
      · simp [e, m, Ne.symm e]

/-- The candidate lines of the loops are the addressable ones with their bit set (R28, R91). -/
theorem mem_candLines (s : State) (l : Nat) : l ∈ s.candLines ↔ s.owns l = true := by
  simp only [State.candLines, State.owns, List.mem_filter, List.mem_range, Bool.and_eq_true, decide_eq_true_eq]
  constructor
  · intro h; exact ⟨h.2.2, h.2.1⟩
  · intro h
    refine ⟨?_, h.2, h.1⟩
    by_contra hc
    have : s.cand.getLsbD l = false := BitVec.getLsbD_of_ge s.cand l (by omega)
    rw [this] at h
    exact absurd h.2 (by simp)

theorem filter_range_le (f : Nat → Bool) : ∀ (m n : Nat), n ≤ m →
    (List.range m).filter (fun l => f l && decide (l < n)) = (List.range n).filter f
  | 0, n, h => by
    have : n = 0 := by omega
    subst this; simp
  | m + 1, n, h => by
    rw [List.range_succ, List.filter_append]
    by_cases e : n = m + 1
    · subst e
      rw [List.range_succ, List.filter_append]
      congr 1
      · apply List.filter_congr
        intro l hl
        simp only [List.mem_range] at hl
        simp [show l < m + 1 by omega]
      · apply List.filter_congr
        intro l hl
        simp only [List.mem_singleton] at hl
        simp [hl]
    · rw [filter_range_le f m n (by omega)]
      simp [show ¬ m < n by omega]

/-- The same list as the rules write it: line ids from 0 to `NUM_LINES - 1` with their bit set (R91). -/
theorem candLines_eq (s : State) (h : s.params.numLines ≤ 32) :
    s.candLines = (List.range s.params.numLines).filter (fun l => s.cand.getLsbD l) :=
  filter_range_le _ 32 s.params.numLines h

end Sys2Proof.Machine
end

