-- ==== Sys2Proof/Laws/PerInstr.lean ====
section
/-! SUPPORT. The per-command family `TableRow`: the word of a command selects that command's row of R74
(`30_encoding.md`). -/

namespace Sys2Proof.Laws.TableRow

/-- The word of a well-formed command matches, under its mask, the row of R74 that bears its mnemonic. -/
def Statement (i : Instr) : Prop :=
  i.wf = true → ∃ r ∈ opcodeTable, r.mnemonic = i.mnemonic ∧ encode i &&& r.mask = r.pat

/-- A word with the row's opcode and a level of its own matches a `B` row. -/
theorem level_matches (opc : BitVec 8) (b : Bool) : commandWord opc b 0 &&& maskB = opc.setWidth 32 := by
  apply BitVec.eq_of_getLsbD_eq
  intro k hk
  have hm : ∀ k : Fin 32, maskB.getLsbD k.val = decide (k.val ≠ 8) := by decide
  have := hm ⟨k, hk⟩
  simp only [commandWord, BitVec.getLsbD_and, BitVec.getLsbD_or, this]
  by_cases h : k < 8
  · simp [h, hk, show k ≠ 8 by omega]
  · by_cases h8 : k = 8
    · subst h8; simp
    · simp [h8, hk, show ¬ k < 8 by omega, show k - 8 ≠ 0 by omega]

/-- A word with the row's opcode and a count of its own matches an `N` row. -/
theorem count_matches (opc : BitVec 8) (n : Nat) : commandWord opc false n &&& maskN = opc.setWidth 32 := by
  apply BitVec.eq_of_getLsbD_eq
  intro k hk
  have hm : ∀ k : Fin 32, maskN.getLsbD k.val = decide (k.val < 16) := by decide
  have := hm ⟨k, hk⟩
  simp only [commandWord, BitVec.getLsbD_and, BitVec.getLsbD_or, this]
  by_cases h : k < 16
  · simp [h, hk]
  · simp [h, hk]
    exact BitVec.getLsbD_of_ge opc k (by omega)

theorem nop : Statement .nop := fun _ => ⟨⟨"NOP", 0x00#32, maskPlain⟩, by decide, rfl, by decide⟩

theorem lrelease : Statement .lrelease := fun _ => ⟨⟨"LRELEASE", 0x01#32, maskPlain⟩, by decide, rfl, by decide⟩

theorem jbind : Statement .jbind := fun _ => ⟨⟨"JBIND", 0x02#32, maskPlain⟩, by decide, rfl, by decide⟩

theorem sbind : Statement .sbind := fun _ => ⟨⟨"SBIND", 0x03#32, maskPlain⟩, by decide, rfl, by decide⟩

theorem jclk : Statement .jclk := fun _ => ⟨⟨"JCLK", 0x10#32, maskPlain⟩, by decide, rfl, by decide⟩

theorem jtdi (b : Bool) : Statement (.jtdi b) :=
  fun _ => ⟨⟨"JTDI", 0x11#32, maskB⟩, by decide, rfl, level_matches _ b⟩

theorem jtms (b : Bool) : Statement (.jtms b) :=
  fun _ => ⟨⟨"JTMS", 0x12#32, maskB⟩, by decide, rfl, level_matches _ b⟩

theorem jrdb : Statement .jrdb := fun _ => ⟨⟨"JRDB", 0x13#32, maskPlain⟩, by decide, rfl, by decide⟩

theorem jidle : Statement .jidle := fun _ => ⟨⟨"JIDLE", 0x14#32, maskPlain⟩, by decide, rfl, by decide⟩

theorem jsdr : Statement .jsdr := fun _ => ⟨⟨"JSDR", 0x15#32, maskPlain⟩, by decide, rfl, by decide⟩

theorem jsir : Statement .jsir := fun _ => ⟨⟨"JSIR", 0x16#32, maskPlain⟩, by decide, rfl, by decide⟩

theorem jshift (n : Nat) : Statement (.jshift n) :=
  fun _ => ⟨⟨"JSHIFT", 0x17#32, maskN⟩, by decide, rfl, count_matches _ n⟩

theorem jsend (n : Nat) : Statement (.jsend n) :=
  fun _ => ⟨⟨"JSEND", 0x18#32, maskN⟩, by decide, rfl, count_matches _ n⟩

theorem jtrst (b : Bool) : Statement (.jtrst b) :=
  fun _ => ⟨⟨"JTRST", 0x19#32, maskB⟩, by decide, rfl, level_matches _ b⟩

theorem jdetect : Statement .jdetect := fun _ => ⟨⟨"JDETECT", 0x20#32, maskPlain⟩, by decide, rfl, by decide⟩

theorem jids (n : Nat) : Statement (.jids n) :=
  fun _ => ⟨⟨"JIDS", 0x21#32, maskN⟩, by decide, rfl, count_matches _ n⟩

theorem jbypass (n : Nat) : Statement (.jbypass n) :=
  fun _ => ⟨⟨"JBYPASS", 0x22#32, maskN⟩, by decide, rfl, count_matches _ n⟩

theorem jidchk : Statement .jidchk := fun _ => ⟨⟨"JIDCHK", 0x23#32, maskPlain⟩, by decide, rfl, by decide⟩

theorem slrst : Statement .slrst := fun _ => ⟨⟨"SLRST", 0x30#32, maskPlain⟩, by decide, rfl, by decide⟩

theorem swake : Statement .swake := fun _ => ⟨⟨"SWAKE", 0x31#32, maskPlain⟩, by decide, rfl, by decide⟩

theorem sj2s : Statement .sj2s := fun _ => ⟨⟨"SJ2S", 0x32#32, maskPlain⟩, by decide, rfl, by decide⟩

theorem ss2j : Statement .ss2j := fun _ => ⟨⟨"SS2J", 0x33#32, maskPlain⟩, by decide, rfl, by decide⟩

theorem sidcode : Statement .sidcode := fun _ => ⟨⟨"SIDCODE", 0x34#32, maskPlain⟩, by decide, rfl, by decide⟩

theorem sprobe : Statement .sprobe := fun _ => ⟨⟨"SPROBE", 0x35#32, maskPlain⟩, by decide, rfl, by decide⟩

end Sys2Proof.Laws.TableRow
end

