-- ==== Sys2Proof/Laws/Shadow.lean ====
section
/-! SUPPORT. The TAP shadow as a set of states (R40 to R43). -/

namespace Sys2Proof.Machine

theorem mem_tapStates (q : TapState) : q ∈ allTapStates := by cases q <;> decide

/-- The one-element set (R40). -/
theorem tapBit_getLsbD (p q : TapState) : (tapBit p).getLsbD q.number = decide (p = q) := by
  cases p <;> cases q <;> decide

/-- Bit `i` of a union of masks, as in `shadowNext` (R42). -/
theorem foldl_or_getLsbD (f : TapState → BitVec 16) (c : TapState → Bool) (i : Nat) : ∀ (l : List TapState) (x : BitVec 16),
    (l.foldl (fun acc q => if c q then acc ||| f q else acc) x).getLsbD i = (x.getLsbD i || l.any (fun q => c q && (f q).getLsbD i))
  | [], x => by simp
  | q :: l, x => by
    rw [List.foldl_cons, foldl_or_getLsbD f c i l]
    by_cases h : c q = true <;> simp [h, Bool.or_assoc]

/-- Every shadow bit is a TAP state's number (R41). -/
theorem exists_tapState (i : Nat) (h : i < 16) : ∃ q : TapState, q.number = i := by
  have : ∀ i : Fin 16, ∃ q : TapState, q.number = i.val := by
    intro i
    have hm : ∀ i : Fin 16, ∃ q ∈ allTapStates, q.number = i.val := by decide
    obtain ⟨q, _, hq⟩ := hm i
    exact ⟨q, hq⟩
  exact this ⟨i, h⟩

/-- Two shadows are equal when they hold the same states (R40). -/
theorem shadow_ext {m k : BitVec 16} (h : ∀ q : TapState, m.getLsbD q.number = k.getLsbD q.number) : m = k := by
  apply BitVec.eq_of_getLsbD_eq
  intro i hi
  obtain ⟨q, rfl⟩ := exists_tapState i hi
  exact h q

/-- A non-empty shadow (R40). -/
theorem shadow_ne_zero {m : BitVec 16} : m ≠ 0#16 ↔ ∃ q : TapState, m.getLsbD q.number = true := by
  constructor
  · intro h
    by_contra hc
    push Not at hc
    apply h
    apply shadow_ext
    intro q
    have := hc q
    simpa using this
  · rintro ⟨q, hq⟩ rfl
    simp at hq

/-- Pulses while TRST is held low (R42, R43). -/
theorem shadowAfter_asserted {s : State} (h : s.trstAsserted = true) (levels : List Bool) (hl : levels ≠ []) :
    shadowAfter s levels = tapBit .testLogicReset := by
  cases levels using List.reverseRecOn with
  | nil => simp at hl
  | append_singleton l b => simp [shadowAfter, h]

/-- Pulses while it is not (R42). -/
theorem shadowAfter_free {s : State} (h : s.trstAsserted = false) (levels : List Bool) :
    shadowAfter s levels = levels.foldl (fun m t => shadowNext t m) s.tapShadow := by
  simp [shadowAfter, h]

end Sys2Proof.Machine
end

