-- ==== Sys2Proof/Laws/Swd.lean ====
section
/-! SUPPORT. What every SWD sequence can do, said once (`SBlock`), and the same for the building blocks R150 to R153. -/

namespace Sys2Proof.Machine

/-- The SWD roles are bound to distinct lines of the line file and SWCLK rests low. -/
structure SLive (s : State) : Prop where
  clk_lt : s.role .swclk < s.lines.length
  dio_lt : s.role .swdio < s.lines.length
  clk_dio : s.role .swclk ≠ s.role .swdio
  clk_low : (s.line (s.role .swclk)).out = false

theorem Inv_slive {s : State} (h : s.Inv) (hb : s.sbound = true) : SLive s := by
  obtain ⟨⟨_, hl, _⟩, _, _, ⟨_, hj⟩⟩ := h
  obtain ⟨_, hbd, _, hlow, _⟩ := hj hb
  simp only [State.swdBindable, State.swdLines, Bool.and_eq_true, List.all_eq_true] at hbd
  obtain ⟨hn, hall⟩ := hbd
  have own : ∀ l ∈ [s.role .swclk, s.role .swdio], l < s.lines.length := by
    intro l hl'
    have := hall l hl'
    simp only [State.owns, Bool.and_eq_true, decide_eq_true_eq] at this
    omega
  exact ⟨own _ (by simp), own _ (by simp), by simpa using hn, hlow⟩

/-- `t` is `s` after an SWD sequence: events `es` (of the given shape once sampled bits are masked), and then SWDIO's line
is `x`. -/
structure SBlock (env : Oracle) (s t : State) (es shape : List Event) (x : Line) : Prop where
  frame : t = { s with
    lines := s.lines.set (s.role .swdio) x
    hist := es.reverse ++ s.hist
    sbit := (sampledBits es).getLastD s.sbit }
  ans : answered env s.hist es
  masked : es.map Event.masked = shape

section Blocks
variable {env : Oracle} {s t u : State}

theorem set_line_self (s : State) (l : Nat) : s.lines.set l (s.line l) = s.lines := by
  unfold State.line
  by_cases hi : l < s.lines.length
  · have e : s.lines.getD l Line.atReset = s.lines[l] := by simp [List.getD, hi]
    rw [e]; exact List.set_getElem_self hi
  · rw [List.set_eq_of_length_le (Nat.le_of_not_lt hi)]

theorem SBlock_role {es shape : List Event} {x : Line} (h : SBlock env s t es shape x) (r : Role) :
    t.role r = s.role r := by
  rw [h.frame]; cases r <;> rfl

theorem SBlock_pull {es shape : List Event} {x : Line} (h : SBlock env s t es shape x) : t.pull = s.pull := by
  rw [h.frame]; rfl

theorem SBlock_params {es shape : List Event} {x : Line} (h : SBlock env s t es shape x) : t.params = s.params := by
  rw [h.frame]

theorem SBlock_line {es shape : List Event} {x : Line} (h : SBlock env s t es shape x) {l : Nat}
    (hl : s.role .swdio ≠ l) : t.line l = s.line l := by
  rw [h.frame]; simp [State.line, List.getD, hl]

theorem SBlock_dio {es shape : List Event} {x : Line} (hs : SLive s) (h : SBlock env s t es shape x) :
    t.line (s.role .swdio) = x := by
  rw [h.frame]; simp [State.line, List.getD, hs.dio_lt]

theorem SBlock_live {es shape : List Event} {x : Line} (hs : SLive s) (h : SBlock env s t es shape x) : SLive t := by
  have hl : t.lines.length = s.lines.length := by rw [h.frame]; simp
  constructor <;> simp only [SBlock_role h, hl]
  · exact hs.clk_lt
  · exact hs.dio_lt
  · exact hs.clk_dio
  · rw [SBlock_line h (Ne.symm hs.clk_dio)]; exact hs.clk_low

theorem SBlock_refl (env : Oracle) (s : State) : SBlock env s s [] [] (s.line (s.role .swdio)) :=
  ⟨by rw [set_line_self]; rfl, by simp [answered], rfl⟩

theorem SBlock_trans {es fs shape shape' : List Event} {x y : Line}
    (h : SBlock env s t es shape x) (k : SBlock env t u fs shape' y) :
    SBlock env s u (es ++ fs) (shape ++ shape') y := by
  constructor
  · have e := k.frame
    have hl : t.lines = s.lines.set (s.role .swdio) x := by rw [h.frame]
    have hh : t.hist = es.reverse ++ s.hist := by rw [h.frame]
    have hb : t.sbit = (sampledBits es).getLastD s.sbit := by rw [h.frame]
    rw [SBlock_role h, hl, hh, hb] at e
    rw [e, List.set_set, h.frame]
    simp [sampledBits_append]
  · rw [answered_append]
    refine ⟨h.ans, ?_⟩
    have := k.ans
    rwa [h.frame] at this
  · simp [h.masked, k.masked]

theorem SBlock_cast {t' : State} {es shape shape' : List Event} {x x' : Line}
    (h : SBlock env s t es shape x) (ht : t = t') (hsh : shape = shape') (hx : x = x') :
    SBlock env s t' es shape' x' := by
  subst ht hsh hx; exact h

theorem swdClockShape_congr (h : ∀ r, t.role r = s.role r) : swdClockShape t = swdClockShape s := by
  simp [swdClockShape, h]

theorem swdWriteShape_congr (h : ∀ r, t.role r = s.role r) (bs : List Bool) : swdWriteShape t bs = swdWriteShape s bs := by
  simp [swdWriteShape, swdClockShape_congr h, h]

theorem swdReadShape_congr (h : ∀ r, t.role r = s.role r) (n : Nat) : swdReadShape t n = swdReadShape s n := by
  simp [swdReadShape, swdClockShape_congr h, h]

/-- One SWCLK clock (R152): no line ends changed. -/
theorem swdTurn_state (hs : SLive s) :
    swdTurn s = { s with hist := .drive (s.role .swclk) false :: .drive (s.role .swclk) true :: s.hist } := by
  have hl : setOut (s.role .swclk) false (setOut (s.role .swclk) true s.lines) = s.lines := by
    rw [setOut_setOut]; exact setOut_self hs.clk_low
  have e : swdTurn s = { s with
      lines := setOut (s.role .swclk) false (setOut (s.role .swclk) true s.lines)
      hist := .drive (s.role .swclk) false :: .drive (s.role .swclk) true :: s.hist } := rfl
  rw [e, hl]

theorem swdTurn_block (env : Oracle) (hs : SLive s) :
    SBlock env s (swdTurn s) (swdClockShape s) (swdClockShape s) (s.line (s.role .swdio)) := by
  constructor
  · rw [swdTurn_state hs, set_line_self]; rfl
  · simp [answered, swdClockShape]
  · rfl

/-- `Cfg` of SWDIO (R152, R158). -/
theorem cfg_dio_block (env : Oracle) (s : State) (d : Dir) (v : Option Bool) :
    SBlock env s (cfg (s.role .swdio) d v s) [.cfg (s.role .swdio) d v] [.cfg (s.role .swdio) d v]
      { dir := d, pull := s.pull, out := v.getD (s.line (s.role .swdio)).out } :=
  ⟨rfl, by simp [answered], rfl⟩

/-- `Drive(SWDIO, b)` (R150). -/
theorem drive_dio_block (env : Oracle) (s : State) (b : Bool) :
    SBlock env s (drive .swdio b s) [.drive (s.role .swdio) b] [.drive (s.role .swdio) b]
      { s.line (s.role .swdio) with out := b } :=
  ⟨rfl, by simp [answered], rfl⟩

/-- `SwdWrite` of each bit (R150): the events are fixed, nothing is sampled. -/
theorem swdWrites_block (env : Oracle) : ∀ (bs : List Bool) {s : State}, SLive s →
    SBlock env s (swdWrites bs s) (swdWriteShape s bs) (swdWriteShape s bs)
      { s.line (s.role .swdio) with out := bs.getLastD (s.line (s.role .swdio)).out }
  | [], s, _ => SBlock_refl env s
  | b :: bs, s, hs => by
    have h1 := drive_dio_block env s b
    have l1 := SBlock_live hs h1
    have h2 := swdTurn_block env l1
    rw [SBlock_role h1, SBlock_dio hs h1, swdClockShape_congr (SBlock_role h1)] at h2
    have h12 := SBlock_trans h1 h2
    have h3 := swdWrites_block env bs (SBlock_live hs h12)
    rw [SBlock_role h12, SBlock_dio hs h12, swdWriteShape_congr (SBlock_role h12)] at h3
    exact SBlock_cast (SBlock_trans h12 h3) rfl (by simp [swdWriteShape]) (by cases bs <;> rfl)

/-- `SwdRead` (R151). -/
theorem swdRead_block (env : Oracle) (hs : SLive s) :
    SBlock env s (swdRead env s).2 (.sample (s.role .swdio) (swdRead env s).1 :: swdClockShape s)
      (.sample (s.role .swdio) false :: swdClockShape s) (s.line (s.role .swdio)) := by
  have h1 : SBlock env s (sample env .swdio s).2 [.sample (s.role .swdio) (swdRead env s).1] [.sample (s.role .swdio) false]
      (s.line (s.role .swdio)) := by
    constructor
    · rw [set_line_self]; rfl
    · simp [answered, swdRead, sample]
    · rfl
  have h2 := swdTurn_block env (SBlock_live hs h1)
  rw [SBlock_role h1, SBlock_dio hs h1, swdClockShape_congr (SBlock_role h1)] at h2
  exact SBlock_trans h1 h2

theorem sampledBits_clock (s : State) (es : List Event) : sampledBits (swdClockShape s ++ es) = sampledBits es := rfl

/-- `n` times `SwdRead` (R151): the bits returned are the bits sampled. -/
theorem swdReads_block (env : Oracle) : ∀ (n : Nat) {s : State}, SLive s →
    ∃ es, SBlock env s (swdReads env n s).2 es (swdReadShape s n) (s.line (s.role .swdio)) ∧
      (swdReads env n s).1 = sampledBits es ∧ (sampledBits es).length = n
  | 0, s, _ => ⟨[], SBlock_refl env s, rfl, rfl⟩
  | n + 1, s, hs => by
    have h1 := swdRead_block env hs
    obtain ⟨es, h2, h3, h4⟩ := swdReads_block env n (SBlock_live hs h1)
    rw [SBlock_role h1, SBlock_dio hs h1, swdReadShape_congr (SBlock_role h1)] at h2
    exact ⟨_, SBlock_cast (SBlock_trans h1 h2) rfl (by simp [swdReadShape, List.replicate_succ]) rfl,
      by simp [swdReads, h3, sampledBits, swdClockShape], by simp [sampledBits, swdClockShape, h4]⟩

theorem sampledBits_swdWriteShape (s : State) : ∀ bs, sampledBits (swdWriteShape s bs) = []
  | [] => rfl
  | b :: bs => by
    have e : swdWriteShape s (b :: bs) = .drive (s.role .swdio) b :: (swdClockShape s ++ swdWriteShape s bs) := by
      simp [swdWriteShape]
    rw [e]; simp [sampledBits, swdClockShape, sampledBits_swdWriteShape s bs]

/-- Bit `i` of a word assembled first bit low (R158). -/
theorem natOfBits_testBit : ∀ (bits : List Bool) (i : Nat), (natOfBits bits).testBit i = bits.getD i false
  | [], i => by simp [natOfBits]
  | b :: bs, 0 => by cases b <;> simp [natOfBits]
  | b :: bs, i + 1 => by
    have := natOfBits_testBit bs i
    rw [Nat.testBit_succ]
    have e : natOfBits (b :: bs) / 2 = natOfBits bs := by
      cases b
      · simp [natOfBits]
      · simp [natOfBits]; omega
    rw [e, this]; simp

theorem firstBitLow_getLsbD (w : Nat) (bits : List Bool) (i : Nat) (h : i < w) :
    (firstBitLow w bits).getLsbD i = bits.getD i false := by
  rw [firstBitLow, BitVec.getLsbD_ofNat, natOfBits_testBit]
  simp [h]

end Blocks

/-! ### Composition and fields the sequences do not look at -/

theorem swdWrites_append (a b : List Bool) (s : State) : swdWrites (a ++ b) s = swdWrites b (swdWrites a s) := by
  induction a generalizing s with
  | nil => rfl
  | cons x xs ih => simp [swdWrites, ih]

/-- Writes and then `Finish` (R15, R150). -/
theorem swdWrites_finish {s : State} (hs : SLive s) (bs : List Bool) (b : Bool)
    (h : bs.getLastD (s.line (s.role .swdio)).out = b) :
    finish .eNone (swdWrites bs s) = { s with
      lines := (s.withOut .swdio b).lines, hist := (swdWriteShape s bs).reverse ++ s.hist
      err := .eNone, activity := .idle } := by
  have hk := swdWrites_block (fun _ _ => false) bs hs
  rw [hk.frame, h, sampledBits_swdWriteShape]
  rfl

theorem swdReads_swdAck (env : Oracle) (a : BitVec 3) : ∀ (n : Nat) (u : State),
    swdReads env n { u with swdAck := a } = ((swdReads env n u).1, { (swdReads env n u).2 with swdAck := a })
  | 0, _ => rfl
  | n + 1, u => by
    have : swdRead env { u with swdAck := a } = ((swdRead env u).1, { (swdRead env u).2 with swdAck := a }) := rfl
    simp only [swdReads, this, swdReads_swdAck env a n]

theorem swdRead_swdAck (env : Oracle) (a : BitVec 3) (u : State) :
    swdRead env { u with swdAck := a } = ((swdRead env u).1, { (swdRead env u).2 with swdAck := a }) := rfl

theorem closeTransaction_swdAck (a : BitVec 3) (u : State) :
    closeTransaction { u with swdAck := a } = { closeTransaction u with swdAck := a } := rfl

/-- Bit writes do not look at `ERR` or the activity (R150). -/
theorem swdWrites_finished (c : Code) : ∀ (bs : List Bool) (s : State),
    swdWrites bs (finish c s) = finish c (swdWrites bs s)
  | [], _ => rfl
  | b :: bs, s => by
    have : swdWrite b (finish c s) = finish c (swdWrite b s) := rfl
    rw [swdWrites, this, swdWrites_finished c bs]; rfl

end Sys2Proof.Machine
end

