-- ==== Sys2Proof/Tests/Slice0.lean ====
section
/-! SUPPORT. Tests and witnesses. Expected values come from `95_test_vectors.md` or from the named rule, never from the
model. `witness_<Name>` meets every hypothesis of `Obligations.<Name>`, with a boundary value for each clause. -/

namespace Sys2Proof.Tests
open Sys2Proof.Machine

/-! ### Well-formedness: each check refuses an ill-formed term -/

theorem smoke_jshift_count : (Instr.jshift 65536).wf = false ∧ (Instr.jshift 65535).wf = true := by decide
theorem smoke_jsend_count : (Instr.jsend 65536).wf = false ∧ (Instr.jsend 65535).wf = true := by decide
theorem smoke_jids_count : (Instr.jids 65536).wf = false ∧ (Instr.jids 65535).wf = true := by decide
theorem smoke_jbypass_count : (Instr.jbypass 65536).wf = false ∧ (Instr.jbypass 65535).wf = true := by decide

/-! ### Decoding: words written out from R70 (`N`, `RSV`, `B`, `OPC`, high to low) and R74 -/

theorem test_decode_line_control :
    decode 0b0000000000000000_0000000_0_00000000#32 = .ok .nop ∧
    decode 0b0000000000000000_0000000_0_00000001#32 = .ok .lrelease ∧
    decode 0b0000000000000000_0000000_0_00000010#32 = .ok .jbind ∧
    decode 0b0000000000000000_0000000_0_00000011#32 = .ok .sbind := by decide

theorem test_decode_jtag_bits :
    decode 0b0000000000000000_0000000_0_00010000#32 = .ok .jclk ∧
    decode 0b0000000000000000_0000000_1_00010001#32 = .ok (.jtdi true) ∧
    decode 0b0000000000000000_0000000_0_00010010#32 = .ok (.jtms false) ∧
    decode 0b0000000000000000_0000000_0_00010011#32 = .ok .jrdb ∧
    decode 0b0000000000000000_0000000_0_00010100#32 = .ok .jidle := by decide

theorem test_decode_jtag_shifts :
    decode 0b0000000000000000_0000000_0_00010101#32 = .ok .jsdr ∧
    decode 0b0000000000000000_0000000_0_00010110#32 = .ok .jsir ∧
    decode 0b0000000000100000_0000000_0_00010111#32 = .ok (.jshift 32) ∧
    decode 0b1111111111111111_0000000_0_00011000#32 = .ok (.jsend 65535) ∧
    decode 0b0000000000000000_0000000_1_00011001#32 = .ok (.jtrst true) := by decide

theorem test_decode_chain :
    decode 0b0000000000000000_0000000_0_00100000#32 = .ok .jdetect ∧
    decode 0b0000000000000011_0000000_0_00100001#32 = .ok (.jids 3) ∧
    decode 0b1000000000000000_0000000_0_00100010#32 = .ok (.jbypass 32768) ∧
    decode 0b0000000000000000_0000000_0_00100011#32 = .ok .jidchk := by decide

theorem test_decode_swd :
    decode 0b0000000000000000_0000000_0_00110000#32 = .ok .slrst ∧
    decode 0b0000000000000000_0000000_0_00110001#32 = .ok .swake ∧
    decode 0b0000000000000000_0000000_0_00110010#32 = .ok .sj2s ∧
    decode 0b0000000000000000_0000000_0_00110011#32 = .ok .ss2j ∧
    decode 0b0000000000000000_0000000_0_00110100#32 = .ok .sidcode ∧
    decode 0b0000000000000000_0000000_0_00110101#32 = .ok .sprobe := by decide

/-- The illegal words of `95_test_vectors.md` 3.1. -/
theorem test_decode_illegal :
    decode 0x00000004#32 = .error .undefinedOpcode ∧ decode 0x000000FF#32 = .error .undefinedOpcode ∧
    decode 0x00000036#32 = .error .undefinedOpcode ∧ decode 0x00000110#32 = .error .unusedB ∧
    decode 0x00010010#32 = .error .unusedN ∧ decode 0x00000211#32 = .error .reservedNonzero ∧
    decode 0x00010111#32 = .error .unusedN ∧ decode 0x00000117#32 = .error .unusedB ∧
    decode 0x00210121#32 = .error .unusedB := by decide

theorem test_decodeTableWord : decodeTableWord 32 0x00200017 = some (.jshift 32) ∧ decodeTableWord 32 0x04 = none := by
  decide

/-- Every command word of R74 runs as the first access after reset. -/
theorem test_first_command :
    ∀ k : Fin 24, (match step (State.reset.withFetchWord 32 ((opcodeTable.map (·.pat.toNat)).getD k 0)) with
      | .next _ => true
      | _ => false) = true := by decide

/-! ### The bench of `95_test_vectors.md` section 4 -/

/-- A bench with 8 lines; short fills, except where a test needs the real ones. -/
def benchParams : Params where
  numLines := 8
  maxDevices := 32
  irFloodBits := 128
  irZeroBits := 128
  detectMode := .irBits
  lineResetCycles := 52
  swdIdleCycles := 2

/-- The registers of program P5 written, nothing bound: TCK 0, TMS 1, TDI 2, TDO 3, TRST 4 when `trst`. -/
def jtagRegs (trst : Bool) : State :=
  { State.resetWith benchParams with
    cand := 0x1F#32, pinmapJtag := 0x03020100#32, pinmapAux := if trst then 0x84#32 else 0#32 }

/-- JTAG bound. -/
def jtagBench (trst : Bool) : State := jbindBody (jtagRegs trst)

/-- The registers of program P3 written, nothing bound: SWCLK 0, SWDIO 1. -/
def swdRegs : State := { State.resetWith benchParams with cand := 0x03#32, pinmapAux := 0x00010000#32 }

/-- SWD bound. -/
def swdBench : State := sbindBody swdRegs

/-- A state with one input waiting. -/
def awaiting (op : HostOp) : State := { State.resetWith benchParams with inputs := [op] }

/-! ### Line control -/

/-- V1. -/
theorem test_jbind_events : (jbindBody { jtagRegs false with cand := 0x0F#32 }).trace =
    [.cfg 0 .input none, .cfg 1 .input none, .cfg 2 .input none, .cfg 3 .input none,
     .cfg 0 .output (some false), .cfg 1 .output (some true), .cfg 2 .output (some false)] := by decide

/-- V1. -/
theorem test_jbind_status : (jtagBench false).statusWord = 0xFFFF1000#32 := by decide

/-- V2: TCK and TMS on one line. -/
theorem test_jbind_duplicate : (jbindBody { jtagRegs false with pinmapJtag := 0x03020000#32 }).err = .eBind := by decide

/-- V4. -/
theorem test_sbind_events : swdBench.trace =
    [.cfg 0 .input none, .cfg 1 .input none, .cfg 0 .output (some false), .cfg 1 .output (some true)] := by decide

/-- V4. -/
theorem test_sbind_status : swdBench.statusWord = 0xFFFF2000#32 := by decide

/-- V5: lines are inputs again and keep their levels. -/
theorem test_lrelease_lines : (lreleaseBody swdBench).lines.take 2 =
    [⟨.input, .none, false⟩, ⟨.input, .none, true⟩] := by decide

/-- V7. -/
theorem test_nop : nopBody { State.resetWith benchParams with err := .eRange } = State.resetWith benchParams := by decide

/-! ### JTAG bit engine -/

/-- B1. -/
theorem test_jclk_shadow_high : (jclkBody (fixedLevel true) (jtagBench false)).tapShadow = 0xD3A5#16 := by decide

/-- B6. -/
theorem test_jclk_shadow_low :
    (jclkBody (fixedLevel true) (jtmsBody false (jtagBench false))).tapShadow = 0x2C5A#16 := by decide +kernel

/-- L9. -/
theorem test_jtdi_jrdb : (jrdbBody (loopback 2 3) (jtdiBody true (jtagBench false))).sbit = true := by decide

/-- B8. -/
theorem test_jidle_shadow : (jidleBody (fixedLevel true) (jtagBench false)).tapShadow = 0x0002#16 := by decide +kernel

/-- B9. -/
theorem test_jsdr_shadow :
    (jsdrBody (fixedLevel true) (jidleBody (fixedLevel true) (jtagBench false))).tapShadow = 0x0010#16 := by decide +kernel

/-- B10. -/
theorem test_jsir_shadow :
    (jsirBody (fixedLevel true) (jidleBody (fixedLevel true) (jtagBench false))).tapShadow = 0x0800#16 := by decide +kernel

/-- L3: eight bits of `0xA5C30F96`. -/
theorem test_jshift_acc :
    (jshiftBody (loopback 2 3) 8 { jtagBench false with pat := 0xA5C30F96#32 }).acc = 0x69#32 := by decide +kernel

/-- L5: bits sent past 32 are 0, the last 32 received stay. -/
theorem test_jshift_long :
    (jshiftBody (loopback 2 3) 40 { jtagBench false with pat := 0xA5C30F96#32 }).acc = 0xF0C3A500#32 := by decide +kernel

/-- L7. -/
theorem test_jsend_acc :
    (jsendBody (loopback 2 3) 32 { jtagBench false with pat := 0x12345678#32 }).acc = 0x1E6A2C48#32 := by decide +kernel

/-- L8. -/
theorem test_jsend_zero : (jsendBody (loopback 2 3) 0 (jtagBench false)).err = .eRange := by decide

/-- B13. -/
theorem test_jtrst_shadow : (jtrstBody false (jtagBench true)).tapShadow = 0x0001#16 := by decide

/-- E6. -/
theorem test_jtrst_disabled : (jtrstBody false (jtagBench false)).err = .eUnbound := by decide

/-! ### Chain commands -/

/-- The bench with fills just long enough for the chains below, to keep the traces short. -/
def shortBench : State :=
  jbindBody { jtagRegs false with params := { benchParams with maxDevices := 8, irFloodBits := 10, irZeroBits := 10 } }

/-- C1 (R130): the sum of the IR lengths. -/
theorem test_jdetect_ir :
    (jdetectBody (chainTarget [⟨4, some 0x4BA00477#32⟩] false) shortBench).cnt = 4#32 := by decide +kernel

/-- C11. -/
theorem test_jdetect_fixed : (jdetectBody (fixedLevel true) shortBench).cnt = 0#32 := by decide +kernel

/-- C12: the device word, then all ones. -/
theorem test_jids_words :
    (jidsBody (chainTarget [⟨4, some 0x4BA00477#32⟩] false) 2 shortBench).idbuf.take 3 =
      [0x4BA00477#32, 0xFFFFFFFF#32, 0#32] := by decide +kernel

/-- Y1, one device. -/
theorem test_jbypass_echo :
    (jbypassBody (chainTarget [⟨4, some 0x4BA00477#32⟩] false) 1 { shortBench with pat := 0xA5C30F96#32 }).acc =
      0xA5C30F96#32 := by decide +kernel

/-- R135's table in mode `IR_BITS`: every IR 1 bit wide, so an exact echo (log 21). -/
theorem test_jbypass_one_bit_ir :
    (jbypassBody (chainTarget [⟨1, some 0x4BA00477#32⟩] false) 1 { shortBench with pat := 0xA5C30F96#32 }).acc =
      0xA5C30F96#32 := by decide +kernel

/-- Y4: a wire. -/
theorem test_jbypass_wire :
    (jbypassBody (loopback 2 3) 2 { shortBench with pat := 0xA5C30F96#32 }).acc = 0x2970C3E5#32 := by decide +kernel

/-- The `JIDCHK` table of `95_test_vectors.md` 3.4. -/
theorem test_jidchk_accepts :
    [0x2BA01477#32, 0x4BA00477#32, 0x06431041#32, 0x000000FF#32, 0x00000804#32].all plausibleId = true := by decide

/-- The rejected words of the same table. -/
theorem test_jidchk_rejects :
    [0x00000000#32, 0xFFFFFFFF#32, 0xFFFFFFFE#32, 0x00000001#32, 0x00000003#32, 0x00000904#32].any plausibleId = false := by
  decide

/-! ### SWD -/

/-- S1. -/
theorem test_slrst_pulses : clockEdges 0 (slrstBody swdBench).trace = 52 := by decide +kernel

/-- S2: the first eight levels of SWDIO. -/
theorem test_swake_levels : wakeBits.take 8 = [false, true, false, false, true, false, false, true] := by decide +kernel

/-- S2: alert, gap and activation. -/
theorem test_swake_pulses : clockEdges 0 (swakeBody swdBench).trace = 140 := by decide +kernel

/-- S3. -/
theorem test_sj2s_bits : lsbits swdJ2s 16 =
    [false, true, true, true, true, false, false, true, true, true, true, false, false, true, true, true] := by decide

/-- S4. -/
theorem test_ss2j_bits : lsbits swdS2j 16 =
    [false, false, true, true, true, true, false, false, true, true, true, false, false, true, true, true] := by decide

/-- S5. -/
theorem test_sidcode_ok : (sidcodeBody (swdTarget 1 1#3 0x2BA01477#32) swdBench).swdIdcode = 0x2BA01477#32 := by decide +kernel

/-- S6: the whole `STATUS` word after WAIT, `SBIT` being the last ACK bit. -/
theorem test_sidcode_wait : (sidcodeBody (swdTarget 1 2#3 0#32) swdBench).statusWord = 0xFFFF2205#32 := by decide +kernel

/-- S10. -/
theorem test_sprobe_status : (sprobeBody (swdTarget 1 1#3 0x2BA01477#32) swdBench).statusWord = 0xFFFF2140#32 := by decide +kernel

/-! ### Assembler (R78, R79) -/

theorem test_assembler_command : readLine "JSHIFT 32 ; a comment" = some [.command (.jshift 32)] := by decide

theorem test_assembler_field : readLine "WR PINMAP_AUX.TRST_EN, 1" = some [.wrField .pinmapAux ⟨7, 1⟩ 1] := by decide

theorem test_pseudo_jtrstpulse : (Stmt.jtrstpulse.ops State.reset) =
    [.write 0x00#8 0x00000019#32, .write 0x00#8 0x00000119#32] := by decide

/-! ### Witnesses: encoding and host accesses -/

theorem witness_DecodeOfEncode : (Instr.jshift 65535).wf = true ∧ Instr.sprobe.wf = true := by decide

theorem witness_EncodeOfDecode : decode 0xFFFF0017#32 = .ok (.jshift 65535) := by decide

theorem witness_OpcodeRowSelects : (⟨"JTDI", 0x11#32, maskB⟩ : OpcodeRow) ∈ opcodeTable ∧
    0x00000111#32 &&& maskB = 0x11#32 ∧ 0x00000211#32 &&& maskB ≠ 0x11#32 := by decide

/-- The edges of the undefined opcode ranges, a reserved bit, a stray `B`, a stray `N`; and a state about to write one. -/
theorem witness_IllegalWords :
    [0x04#32, 0x0F#32, 0x1A#32, 0x1F#32, 0x24#32, 0x2F#32, 0x36#32, 0xFF#32, 0x200#32, 0x110#32, 0x10010#32].all
      (fun w => (decode w).toOption.isNone) = true ∧
    [0x03#32, 0x10#32, 0x19#32, 0x20#32, 0x23#32, 0x30#32, 0x35#32].all (fun w => (decode w).toOption.isSome) = true ∧
    (awaiting (.write 0x00#8 0x36#32)).inputs = [.write 0x00#8 0x36#32] := by decide

/-- Values at the top of a 1-bit, a 5-bit and a 16-bit field. -/
theorem witness_FieldWriteIsReadModifyWrite :
    ("TRST_EN", (⟨7, 1⟩ : Field)) ∈ Reg.pinmapAux.fields ∧ 1 < 2 ^ 1 ∧
    ("TDO", (⟨24, 5⟩ : Field)) ∈ Reg.pinmapJtag.fields ∧ 31 < 2 ^ 5 ∧
    ("N", (⟨16, 16⟩ : Field)) ∈ Reg.cmd.fields ∧ 65535 < 2 ^ 16 := by decide

theorem witness_StepRunsDecodedCommand :
    (awaiting (.write 0x00#8 0x20#32)).inputs = .write 0x00#8 0x20#32 :: [] ∧ decode 0x20#32 = .ok .jdetect := by decide

/-- What the host gets for one read of a state with a mark in every register. -/
def readBack (idx : RegIndex) : List Word :=
  match step { awaiting (.read idx) with
    cmd := 1#32, pat := 2#32, acc := 3#32, cnt := 4#32, cand := 5#32, linecfg := 1#32, pinmapJtag := 7#32
    pinmapAux := 8#32, swdIdcode := 9#32, idbuf := 10#32 :: List.replicate 30 0#32 ++ [11#32] } with
  | .next t => t.replies
  | _ => []

/-- Every clause at the ends of its range: `0x0A`, `0x7F`, `0x80`, `0x9F` (word 31 of 32), `0xA0`, `0xFF`. -/
theorem witness_RegReadReturnsRegister :
    [0x00#8, 0x01#8, 0x02#8, 0x03#8, 0x04#8, 0x05#8, 0x06#8, 0x07#8, 0x08#8, 0x09#8].map readBack =
      [[1#32], [0xFFFF0000#32], [2#32], [3#32], [4#32], [5#32], [1#32], [7#32], [8#32], [9#32]] ∧
    [0x0A#8, 0x7F#8, 0x80#8, 0x9F#8, 0xA0#8, 0xFF#8].map readBack =
      [[0#32], [0#32], [10#32], [11#32], [0#32], [0#32]] := by decide

/-- The index ranges of both clauses: `0x02`; then `0x01`, `0x03`, `0x04`, `0x09`, `0xFF`. -/
theorem witness_PatAndIgnoredWrites :
    (awaiting (.write 0x02#8 7#32)).inputs = .write 0x02#8 7#32 :: [] ∧
    (∀ idx ∈ [0x01#8, 0x03#8, 0x04#8, 0x09#8, 0xFF#8],
      idx = 0x01#8 ∨ idx = 0x03#8 ∨ idx = 0x04#8 ∨ 0x09 ≤ idx.toNat) := by decide

/-- R28 at 8 lines, and at the extremes of R9. -/
theorem witness_CandWrite : benchParams.Wf ∧
    (awaiting (.write 0x05#8 0xFFFFFFFF#32)).inputs = .write 0x05#8 0xFFFFFFFF#32 :: [] ∧
    legalCand benchParams 0xFFFFFFFF#32 = 0xFF#32 ∧
    legalCand { benchParams with numLines := 32 } 0xFFFFFFFF#32 = 0xFFFFFFFF#32 ∧
    legalCand { benchParams with numLines := 4 } 0xFFFFFFFF#32 = 0xF#32 := by decide

/-- R29: `PULL` 3 is stored as 0, 2 as 2, reserved bits as 0. -/
theorem witness_LinecfgWrite : (awaiting (.write 0x06#8 3#32)).inputs = .write 0x06#8 3#32 :: [] ∧
    [3#32, 2#32, 0xFFFFFFFD#32, 0xFFFFFFFF#32].map legalLinecfg = [0#32, 2#32, 1#32, 0#32] := by decide

theorem witness_PinmapJtagWrite :
    (awaiting (.write 0x07#8 0xFFFFFFFF#32)).inputs = .write 0x07#8 0xFFFFFFFF#32 :: [] ∧
    legalPinmapJtag 0xFFFFFFFF#32 = 0x1F1F1F1F#32 := by decide

theorem witness_PinmapAuxWrite :
    (awaiting (.write 0x08#8 0xFFFFFFFF#32)).inputs = .write 0x08#8 0xFFFFFFFF#32 :: [] ∧
    legalPinmapAux 0xFFFFFFFF#32 = 0x001F1F9F#32 := by decide

theorem witness_ResetInputResets : (awaiting .reset).inputs = .reset :: [] ∧ State.reset.params = Config.params :=
  ⟨rfl, rfl⟩

/-! ### Witnesses: the whole machine -/

theorem jtagBench_inv : (jtagBench false).Inv ∧ (jtagBench true).Inv := ⟨by decide, by decide⟩

theorem swdBench_inv : swdBench.Inv := by decide

theorem witness_StepKeepsWellFormed :
    let s := { jtagBench true with inputs := [HostOp.write 0x00#8 0x20#32] }
    s.Wf ∧ ∃ t, step s = .next t := ⟨by decide, _, rfl⟩

theorem witness_TraceGrowsByAnswers : ∃ t, exec .jclk (jtagBench false) = .next t := ⟨_, rfl⟩

theorem witness_CommandsKeepHostRegisters : ∃ t, exec .sprobe swdBench = .next t := ⟨_, rfl⟩

theorem witness_OnlyCandidateLinesTouched : (jtagBench true).Inv ∧ ∃ t, exec (.jtrst false) (jtagBench true) = .next t :=
  ⟨jtagBench_inv.2, _, rfl⟩

theorem witness_UnboundCommands :
    bindingMissing .jclk swdBench = true ∧ bindingMissing .sidcode (jtagBench true) = true ∧
    bindingMissing (.jtrst false) (jtagBench false) = true ∧ bindingMissing (.jtrst false) (jtagBench true) = false ∧
    bindingMissing .jidchk (State.resetWith benchParams) = false := by decide

/-- Both clauses at the edges: `JSEND` 0 and 1, `JIDS` and `JBYPASS` 32 and 33 with `MAX_DEVICES = 32`. -/
theorem witness_RangeErrors :
    (∀ i ∈ [Instr.jsend 0, .jsend 1, .jids 32, .jids 33, .jbypass 32, .jbypass 33],
      bindingMissing i (jtagBench false) = false) ∧
    [Instr.jsend 0, .jsend 1, .jids 32, .jids 33, .jbypass 32, .jbypass 33].map (fun i => outOfRange i (jtagBench false)) =
      [true, false, false, true, false, true] := by decide

/-- A command that ends in each of the codes a command can end in, but `E_SWD_ACK`, which the target decides. -/
theorem witness_ErrorsLeaveStateUnchanged :
    [(Instr.jclk, swdBench), (.jids 33, jtagBench false), (.jbind, State.resetWith benchParams), (.nop, swdBench)].map
      (fun p => match exec p.1 p.2 with
        | .next t => t.err
        | _ => .eIllegal) = [Code.eUnbound, .eRange, .eBind, .eNone] ∧
    (sidcodeBody (swdTarget 1 4#3 0#32) swdBench).err = .eSwdAck := by decide +kernel

theorem witness_ShadowIsInformational : ∃ t, exec (.jtrst false) (jtagBench true) = .next t := ⟨_, rfl⟩

/-! ### Witnesses: line control -/

theorem witness_NopOnlyClearsErr : wordOpc 0x00000000#32 = 0x00#8 ∧ wordOpc 0x00010000#32 = 0x00#8 := by decide

theorem witness_LreleaseReleases : swdBench.Shaped := by decide

/-- A legal assignment with and without TRST; three assignments that are not: a shared line, a line that is no candidate,
a line past the last. -/
theorem witness_JbindBinds :
    (∀ s ∈ [jtagRegs false, jtagRegs true],
      s.Shaped ∧ s.jtagLines.Nodup ∧ ∀ l ∈ s.jtagLines, l < s.params.numLines ∧ s.cand.getLsbD l = true) ∧
    (∀ s ∈ [{ jtagRegs false with pinmapJtag := 0x03020000#32 }, { jtagRegs false with cand := 0x07#32 },
        { jtagRegs false with pinmapJtag := 0x08020100#32 }],
      ¬ (s.jtagLines.Nodup ∧ ∀ l ∈ s.jtagLines, l < s.params.numLines ∧ s.cand.getLsbD l = true)) := by decide

theorem witness_SbindBinds :
    (swdRegs.Shaped ∧ swdRegs.role .swclk ≠ swdRegs.role .swdio ∧
      ∀ l ∈ swdRegs.swdLines, l < swdRegs.params.numLines ∧ swdRegs.cand.getLsbD l = true) ∧
    (∀ s ∈ [{ swdRegs with pinmapAux := 0#32 }, { swdRegs with cand := 0x01#32 }],
      ¬ (s.role .swclk ≠ s.role .swdio ∧
        ∀ l ∈ s.swdLines, l < s.params.numLines ∧ s.cand.getLsbD l = true)) := by decide

/-- One candidate too few: three of four, four of five with TRST, one of two. -/
theorem witness_TooFewCandidatesFailBind :
    ({ jtagRegs false with cand := 0x07#32 }).candLines.length < 4 ∧
    ({ jtagRegs true with cand := 0x0F#32 }).candLines.length < 5 ∧
    ({ swdRegs with cand := 0x01#32 }).candLines.length < 2 := by decide

/-! ### Witnesses: JTAG and SWD commands -/

/-- Meets the hypotheses of `JclkPulses`, `JidleRestoresIdle`, `JsdrJsirWalk`, `JshiftShifts`, `JdetectCounts`,
`JdetectWithoutDevices`; of `JtdiJtmsDrive` and `JrdbSamples`, which ask for `JBOUND` alone. -/
theorem witness_JclkPulses : (jtagBench false).Inv ∧ (jtagBench false).jbound = true ∧
    (jtagBench true).Inv ∧ (jtagBench true).jbound = true ∧ swdBench.jbound = false :=
  ⟨jtagBench_inv.1, by decide, jtagBench_inv.2, by decide, by decide⟩

theorem witness_JtdiJtmsDrive : (jtagBench false).jbound = true ∧ swdBench.jbound = false := by decide

theorem witness_JrdbSamples : (jtagBench false).jbound = true ∧ swdBench.jbound = false := by decide

/-- With TRST high and with TRST held low. -/
theorem witness_JidleRestoresIdle :
    ∀ s ∈ [jtagBench true, jtrstBody false (jtagBench true)], s.Inv ∧ s.jbound = true := by decide

theorem witness_JsdrJsirWalk : (jtagBench true).Inv ∧ (jtagBench true).jbound = true ∧ swdBench.jbound = false := by
  decide

/-- Any count is allowed: 0, 1, 65535. -/
theorem witness_JshiftShifts : (65535 : Nat) < 65536 ∧ (jtagBench true).Inv ∧ (jtagBench true).jbound = true ∧
    swdBench.jbound = false := by decide

/-- The count clauses at 0, 1 and 65535. -/
theorem witness_JsendSends : (65535 : Nat) < 65536 ∧ (jtagBench true).Inv ∧ (jtagBench true).jbound = true ∧
    swdBench.jbound = false ∧ 1 ≤ 1 := by decide

/-- TRST bound; JTAG not bound; TRST not enabled. -/
theorem witness_JtrstDrives :
    ((jtagBench true).jbound = true ∧ (jtagBench true).trstEn = true) ∧ swdBench.jbound = false ∧
    (jtagBench false).trstEn = false := by decide

theorem witness_FiveOnesReachReset : 0xFFFF#16 ≠ 0#16 ∧ 0x0001#16 ≠ 0#16 := by decide

/-- A bound state with the shadow at each start the clauses name, TMS low where they ask for it. -/
theorem witness_NetTapEffects :
    ∀ q ∈ [TapState.runTestIdle, .shiftDr, .shiftIr],
      let s := { jtmsBody false (jtagBench true) with tapShadow := tapBit q }
      s.Inv ∧ s.jbound = true ∧ s.trstAsserted = false ∧ (s.line (s.role .tms)).out = false ∧ s.tapShadow = tapBit q := by
  decide

theorem witness_LoopbackShiftReturnsPattern :
    (jtagBench false).Inv ∧ (jtagBench false).jbound = true ∧ (0 : Nat) ≤ 32 ∧ 32 ≤ 32 := by decide

/-- Both detection modes, `m` at 0 and at the maximum. -/
theorem witness_JtagPulseCounts :
    ∀ s ∈ [jtagBench false, jbindBody { jtagRegs false with params := { benchParams with detectMode := .bypassCount } }],
      s.Inv ∧ s.jbound = true ∧ 0 ≤ s.params.maxDevices ∧ 32 ≤ s.params.maxDevices ∧ s.params.irFloodBits = 128 ∧
        s.params.irZeroBits = 128 := by decide

theorem witness_JdetectCounts :
    ∀ s ∈ [jtagBench false, jbindBody { jtagRegs false with params := { benchParams with detectMode := .bypassCount } }],
      s.Inv ∧ s.jbound = true := by decide

theorem witness_JdetectWithoutDevices : (jtagBench false).Inv ∧ (jtagBench false).jbound = true := by decide

/-- `n` at 0 and at `MAX_DEVICES`; words 0 and 31, bits 0 and 31. -/
theorem witness_JidsReadsWords : (jtagBench false).Inv ∧ (jtagBench false).jbound = true ∧
    0 ≤ (jtagBench false).params.maxDevices ∧ 32 ≤ (jtagBench false).params.maxDevices := by decide

theorem witness_JbypassEchoes : (jtagBench false).Inv ∧ (jtagBench false).jbound = true ∧
    0 ≤ (jtagBench false).params.maxDevices ∧ 32 ≤ (jtagBench false).params.maxDevices := by decide

theorem witness_JbypassOnWire : (jtagBench false).Inv ∧ (jtagBench false).jbound = true ∧
    32 ≤ (jtagBench false).params.maxDevices := by decide

/-- Meets the hypotheses of `SlrstResetsLine`, `SwakeWakes`, `SwitchSequences`, `SidcodeReads`, `SprobeProbes`,
`SprobeIsSequence`. -/
theorem witness_SlrstResetsLine : swdBench.Inv ∧ swdBench.sbound = true ∧ (jtagBench true).sbound = false := by decide

theorem witness_SwakeWakes : swdBench.Inv ∧ swdBench.sbound = true ∧ (jtagBench true).sbound = false := by decide

theorem witness_SwitchSequences : swdBench.Inv ∧ swdBench.sbound = true ∧ (jtagBench true).sbound = false := by decide

/-- Both ACK clauses are met, by a target that answers OK and by one that answers FAULT. -/
theorem witness_SidcodeReads : (swdBench.Inv ∧ swdBench.sbound = true) ∧ (jtagBench true).sbound = false ∧
    (sidcodeBody (swdTarget 1 1#3 0x2BA01477#32) swdBench).swdAck = 0b001#3 ∧
    (sidcodeBody (swdTarget 1 4#3 0#32) swdBench).swdAck ≠ 0b001#3 := by decide +kernel

theorem witness_SprobeProbes : (swdBench.Inv ∧ swdBench.sbound = true) ∧ (jtagBench true).sbound = false ∧
    (sprobeBody (swdTarget 1 1#3 0x2BA01477#32) swdBench).swdAck = 0b001#3 ∧
    (sprobeBody (swdTarget 1 2#3 0#32) swdBench).swdAck ≠ 0b001#3 := by decide +kernel

theorem witness_SprobeIsSequence : swdBench.sbound = true := by decide

theorem witness_SidcodeReturnsTargetIdcode : swdBench.Inv ∧ swdBench.sbound = true ∧
    samplesOf (swdBench.role .swdio) swdBench.hist = 0 := by decide

theorem witness_SwdNetEffects : swdBench.Inv ∧ swdBench.sbound = true ∧ swdBench.params.lineResetCycles = 52 ∧
    swdBench.params.swdIdleCycles = 2 := by decide

end Sys2Proof.Tests
end

/-! ### The trace (R14, R38, R61)

What a command adds to the trace, said once (`Appends`) for the primitives of R14 and then for each building block
built from them. It asks nothing of the state: neither the invariant nor a binding. -/

namespace Sys2Proof.Machine

/-- From `s` to `t` the trace has only grown, each new sample is the answer of `env` to the history before it (R14, R61),
and `SBIT` is the last one of them, if there is one. -/
def Appends (env : Oracle) (s t : State) : Prop :=
  ∃ new, t.trace = s.trace ++ new ∧ answered env s.hist new ∧ t.sbit = (sampledBits new).getLastD s.sbit

section Blocks
variable {env : Oracle} {s t u : State}

theorem Appends.refl (env : Oracle) (s : State) : Appends env s s := ⟨[], by simp, trivial, rfl⟩

theorem Appends.trans (h : Appends env s t) (k : Appends env t u) : Appends env s u := by
  obtain ⟨es, htrace, hans, hsbit⟩ := h
  obtain ⟨fs, ktrace, kans, ksbit⟩ := k
  have hhist : t.hist = es.reverse ++ s.hist := by simpa [State.trace] using congrArg List.reverse htrace
  refine ⟨es ++ fs, ?_, ?_, ?_⟩
  · rw [ktrace, htrace, List.append_assoc]
  · rw [answered_append, ← hhist]
    exact ⟨hans, kans⟩
  · rw [ksbit, hsbit, sampledBits_append, getLastD_append]

/-- Writes to the result registers and to the fields of `STATUS` other than `SBIT` add nothing (R24, R26, R27, R32, R33). -/
theorem Appends.with_results (h : Appends env s t) {err : Code} {activity : Activity} {swdAck : BitVec 3}
    {valid echoMatch swdOk swdParity jbound sbound : Bool} {tapShadow : BitVec 16} {acc cnt swdIdcode : Word}
    {idbuf : List Word} :
    Appends env s { t with
      err := err, valid := valid, echoMatch := echoMatch, swdOk := swdOk, swdParity := swdParity, swdAck := swdAck
      jbound := jbound, sbound := sbound, tapShadow := tapShadow, acc := acc, cnt := cnt, swdIdcode := swdIdcode
      idbuf := idbuf, activity := activity } := h

/-! ### Primitives (R14) and `Finish` (R15) -/

theorem Appends.after_cfg (h : Appends env s t) (l : Nat) (d : Dir) (v : Option Bool) :
    Appends env s (cfg l d v t) :=
  h.trans ⟨[.cfg l d v], by simp [State.trace], by simp [answered], rfl⟩

/-- `Cfg` of the line a role is bound to. -/
theorem Appends.after_cfgRole (h : Appends env s t) (r : Role) (d : Dir) (v : Option Bool) :
    Appends env s (cfg (t.role r) d v t) := h.after_cfg (t.role r) d v

theorem Appends.after_drive (h : Appends env s t) (r : Role) (v : Bool) : Appends env s (drive r v t) :=
  h.trans ⟨[.drive (t.role r) v], by simp [State.trace], by simp [answered], rfl⟩

/-- The one primitive that makes a sample: its bit is the oracle's answer, and `SBIT` keeps it. -/
theorem Appends.after_sample (h : Appends env s t) (r : Role) : Appends env s (sample env r t).2 :=
  h.trans ⟨[.sample (t.role r) (env t.hist (t.role r))], by simp [State.trace], by simp [answered], rfl⟩

theorem Appends.after_finish (h : Appends env s t) (c : Code) : Appends env s (finish c t) := h.with_results

theorem raiseError_appends (env : Oracle) (c : Code) (s : State) : Appends env s (raiseError c s) :=
  (Appends.refl env s).after_finish c

theorem whenJBound_appends {body : State → State} (h : Appends env s (body s)) :
    Appends env s (whenJBound body s) := by
  unfold whenJBound
  split
  · exact h
  · exact raiseError_appends env _ s

theorem whenSBound_appends {body : State → State} (h : Appends env s (body s)) :
    Appends env s (whenSBound body s) := by
  unfold whenSBound
  split
  · exact h
  · exact raiseError_appends env _ s

/-! ### JTAG sequences (R100 to R105, R130 to R133) -/

theorem Appends.after_pulse (h : Appends env s t) : Appends env s (pulse env t).2 :=
  (((h.after_drive .tck true).after_sample .tdo).after_drive .tck false).with_results

theorem Appends.after_pulses : ∀ (n : Nat) {t : State}, Appends env s t → Appends env s (pulses env n t)
  | 0, _, h => h
  | n + 1, _, h => after_pulses n h.after_pulse

theorem Appends.after_tmsSeq : ∀ (ts : List Bool) {t : State}, Appends env s t → Appends env s (tmsSeq env ts t)
  | [], _, h => h
  | v :: ts, _, h => after_tmsSeq ts (h.after_drive .tms v).after_pulse

theorem Appends.after_restoreIdle (h : Appends env s t) : Appends env s (restoreIdle env t) := h.after_tmsSeq _

theorem Appends.after_enterShiftDr (h : Appends env s t) : Appends env s (enterShiftDr env t) := h.after_tmsSeq _

theorem Appends.after_enterShiftIr (h : Appends env s t) : Appends env s (enterShiftIr env t) := h.after_tmsSeq _

theorem Appends.after_updateToIdle (h : Appends env s t) : Appends env s (updateToIdle env t) := h.after_tmsSeq _

theorem Appends.after_driveExit (h : Appends env s t) (last : Bool) : Appends env s (driveExit last t) := by
  cases last with
  | false => exact h
  | true => exact h.after_drive .tms true

theorem Appends.after_shiftLoop : ∀ (n : Nat) (q acc : Word) {t : State}, Appends env s t →
    Appends env s (shiftLoop env n q acc t).2
  | 0, _, _, _, h => h
  | n + 1, _, _, _, h => after_shiftLoop n _ _ ((h.after_driveExit _).after_drive .tdi _).after_pulse

theorem Appends.after_shiftArray (h : Appends env s t) (p : Word) (n : Nat) :
    Appends env s (shiftArray env p n t).2 := h.after_shiftLoop n p 0#32

theorem Appends.after_flood (exitLast : Bool) : ∀ (n : Nat) {t : State}, Appends env s t →
    Appends env s (flood env exitLast n t)
  | 0, _, h => h
  | n + 1, _, h => after_flood exitLast n (h.after_driveExit _).after_pulse

theorem Appends.after_countZeros : ∀ (n c : Nat) {t : State}, Appends env s t →
    Appends env s (countZeros env n c t).2
  | 0, _, _, h => h
  | n + 1, c, _, h => by
    rw [countZeros]
    split
    · exact h.after_pulse
    · exact after_countZeros n (c + 1) h.after_pulse

theorem Appends.after_detectFlood (h : Appends env s t) : Appends env s (detectFlood env t) := by
  have hfill := h.after_enterShiftIr.after_drive .tdi true
  dsimp only [detectFlood]
  split
  · exact hfill.after_flood false _
  · exact (hfill.after_flood true _).after_updateToIdle.after_enterShiftDr

theorem Appends.after_pulseWord : ∀ (n : Nat) (w : Word) {t : State}, Appends env s t →
    Appends env s (pulseWord env n w t).2
  | 0, _, _, h => h
  | n + 1, _, _, h => after_pulseWord n _ h.after_pulse

theorem Appends.after_readWords : ∀ (n : Nat) {t : State}, Appends env s t → Appends env s (readWords env n t).2
  | 0, _, h => h
  | n + 1, _, h => after_readWords n (h.after_pulseWord 32 0#32)

theorem Appends.after_enterBypass (h : Appends env s t) : Appends env s (enterBypass env t) := by
  have htdi := h.after_restoreIdle.after_enterShiftIr.after_drive .tdi true
  exact (htdi.after_flood true _).after_updateToIdle.after_enterShiftDr

/-! ### Binding sequences (R91 to R93) -/

theorem Appends.after_makeInputs : ∀ (ls : List Nat) {t : State}, Appends env s t → Appends env s (makeInputs ls t)
  | [], _, h => h
  | l :: ls, _, h => after_makeInputs ls (h.after_cfg l .input none)

theorem Appends.after_bindTrst (h : Appends env s t) : Appends env s (bindTrst t) := by
  unfold bindTrst
  split
  · exact h.after_cfgRole .trst .output (some true)
  · exact h

theorem Appends.after_bindJtagLines (h : Appends env s t) : Appends env s (bindJtagLines t) := by
  have htck := (h.after_makeInputs t.candLines).after_cfgRole .tck .output (some false)
  have htms := htck.after_cfgRole .tms .output (some true)
  exact (htms.after_cfgRole .tdi .output (some false)).after_bindTrst

theorem Appends.after_bindSwdLines (h : Appends env s t) : Appends env s (bindSwdLines t) := by
  have hclk := (h.after_makeInputs t.candLines).after_cfgRole .swclk .output (some false)
  exact hclk.after_cfgRole .swdio .output (some true)

/-! ### SWD sequences (R150 to R159) -/

theorem Appends.after_swdTurn (h : Appends env s t) : Appends env s (swdTurn t) :=
  (h.after_drive .swclk true).after_drive .swclk false

theorem Appends.after_swdWrites : ∀ (bs : List Bool) {t : State}, Appends env s t → Appends env s (swdWrites bs t)
  | [], _, h => h
  | b :: bs, _, h => after_swdWrites bs (h.after_drive .swdio b).after_swdTurn

theorem Appends.after_swdRead (h : Appends env s t) : Appends env s (swdRead env t).2 :=
  (h.after_sample .swdio).after_swdTurn

theorem Appends.after_swdReads : ∀ (n : Nat) {t : State}, Appends env s t → Appends env s (swdReads env n t).2
  | 0, _, h => h
  | n + 1, _, h => after_swdReads n h.after_swdRead

theorem Appends.after_lineReset (h : Appends env s t) : Appends env s (lineReset t) := h.after_swdWrites _

theorem Appends.after_sendBits {w : Nat} (h : Appends env s t) (v : BitVec w) (n : Nat) :
    Appends env s (sendBits v n t) := h.after_swdWrites _

theorem Appends.after_wake (h : Appends env s t) : Appends env s (wake t) :=
  ((h.after_sendBits swdAlert 128).after_sendBits swdIdleGap 4).after_sendBits swdActivation 8

theorem Appends.after_switchToSwd (h : Appends env s t) : Appends env s (switchToSwd t) :=
  h.after_lineReset.after_sendBits swdJ2s 16

theorem Appends.after_switchToJtag (h : Appends env s t) : Appends env s (switchToJtag t) :=
  h.after_lineReset.after_sendBits swdS2j 16

theorem Appends.after_idleCycles (h : Appends env s t) : Appends env s (idleCycles t) := h.after_swdWrites _

theorem Appends.after_requestIdcode (h : Appends env s t) : Appends env s (requestIdcode env t) := by
  have hclear : Appends env s { t with swdOk := false } := h.with_results
  have hsend := hclear.after_sendBits swdHeader 8
  exact ((hsend.after_cfgRole .swdio .input none).after_swdTurn.after_swdReads 3).with_results

theorem Appends.after_closeTransaction (h : Appends env s t) : Appends env s (closeTransaction t) :=
  h.after_swdTurn.after_cfgRole .swdio .output (some false)

theorem Appends.after_abortIdcode (h : Appends env s t) : Appends env s (abortIdcode t) :=
  h.after_closeTransaction.with_results.after_finish .eSwdAck

theorem Appends.after_readIdcode (h : Appends env s t) : Appends env s (readIdcode env t) :=
  (h.after_swdReads 32).after_swdRead.after_closeTransaction.with_results.after_finish .eNone

theorem Appends.after_idcodeTxn (h : Appends env s t) : Appends env s (idcodeTxn env t) := by
  dsimp only [idcodeTxn]
  split
  · exact h.after_requestIdcode.after_readIdcode
  · exact h.after_requestIdcode.after_abortIdcode

end Blocks

/-! ### Commands whose body branches, or writes a result register -/

section Commands
variable (env : Oracle) (s : State)

theorem lreleaseBody_appends : Appends env s (lreleaseBody s) :=
  ((Appends.refl env s).after_makeInputs s.candLines).with_results.after_finish .eNone

theorem jbindBody_appends : Appends env s (jbindBody s) := by
  unfold jbindBody
  split
  · exact (Appends.refl env s).after_bindJtagLines.with_results.after_finish .eNone
  · exact raiseError_appends env _ s

theorem sbindBody_appends : Appends env s (sbindBody s) := by
  unfold sbindBody
  split
  · exact (Appends.refl env s).after_bindSwdLines.with_results.after_finish .eNone
  · exact raiseError_appends env _ s

theorem jshiftBody_appends (n : Nat) : Appends env s (jshiftBody env n s) :=
  ((Appends.refl env s).after_shiftArray s.pat n).with_results.after_finish .eNone

theorem jsendBody_appends (n : Nat) : Appends env s (jsendBody env n s) := by
  have hshift := (Appends.refl env s).after_enterShiftDr.after_shiftArray (enterShiftDr env s).pat n
  unfold jsendBody
  split
  · exact raiseError_appends env _ s
  · exact hshift.with_results.after_updateToIdle.after_finish .eNone

theorem jtrstBody_appends (b : Bool) : Appends env s (jtrstBody b s) := by
  have hdrive := (Appends.refl env s).after_drive .trst b
  unfold jtrstBody
  split
  · cases b with
    | false => exact hdrive.with_results.after_finish .eNone
    | true => exact hdrive.after_finish .eNone
  · exact raiseError_appends env _ s

theorem jdetectBody_appends : Appends env s (jdetectBody env s) := by
  have hflood := (Appends.refl env s).after_restoreIdle.after_detectFlood
  have hcount (m n : Nat) :=
    (((hflood.after_drive .tdi false).after_pulses m).after_drive .tdi true).after_countZeros n 0
  exact (hcount _ _).after_restoreIdle.with_results.after_finish .eNone

theorem jidsBody_appends (n : Nat) : Appends env s (jidsBody env n s) := by
  have hread := ((Appends.refl env s).after_restoreIdle.after_enterShiftDr.after_drive .tdi true).after_readWords n
  unfold jidsBody
  split
  · exact raiseError_appends env _ s
  · exact hread.with_results.after_restoreIdle.after_finish .eNone

theorem jbypassBody_appends (n : Nat) : Appends env s (jbypassBody env n s) := by
  have hshift := (Appends.refl env s).after_enterBypass.after_shiftArray (enterBypass env s).pat (32 + n)
  unfold jbypassBody
  split
  · exact raiseError_appends env _ s
  · exact hshift.after_restoreIdle.with_results.after_finish .eNone

theorem sprobeBody_appends : Appends env s (sprobeBody env s) :=
  (Appends.refl env s).after_lineReset.after_wake.after_switchToSwd.after_lineReset.after_idleCycles.after_idcodeTxn

end Commands

/-- Every command only appends, with the run's own oracle. -/
theorem exec_appends (i : Instr) (s : State) : ∃ t, exec i s = .next t ∧ Appends s.env s t := by
  have start : Appends s.env s s := .refl _ s
  cases i with
  | nop => exact ⟨_, rfl, start.after_finish .eNone⟩
  | lrelease => exact ⟨_, rfl, lreleaseBody_appends _ s⟩
  | jbind => exact ⟨_, rfl, jbindBody_appends _ s⟩
  | sbind => exact ⟨_, rfl, sbindBody_appends _ s⟩
  | jclk => exact ⟨_, rfl, whenJBound_appends (start.after_pulse.after_finish _)⟩
  | jtdi b => exact ⟨_, rfl, whenJBound_appends ((start.after_drive .tdi b).after_finish _)⟩
  | jtms b => exact ⟨_, rfl, whenJBound_appends ((start.after_drive .tms b).after_finish _)⟩
  | jrdb => exact ⟨_, rfl, whenJBound_appends ((start.after_sample .tdo).after_finish _)⟩
  | jidle => exact ⟨_, rfl, whenJBound_appends (start.after_restoreIdle.after_finish _)⟩
  | jsdr => exact ⟨_, rfl, whenJBound_appends (start.after_enterShiftDr.after_finish _)⟩
  | jsir => exact ⟨_, rfl, whenJBound_appends (start.after_enterShiftIr.after_finish _)⟩
  | jshift n => exact ⟨_, rfl, whenJBound_appends (jshiftBody_appends _ s n)⟩
  | jsend n => exact ⟨_, rfl, whenJBound_appends (jsendBody_appends _ s n)⟩
  | jtrst b => exact ⟨_, rfl, whenJBound_appends (jtrstBody_appends _ s b)⟩
  | jdetect => exact ⟨_, rfl, whenJBound_appends (jdetectBody_appends _ s)⟩
  | jids n => exact ⟨_, rfl, whenJBound_appends (jidsBody_appends _ s n)⟩
  | jbypass n => exact ⟨_, rfl, whenJBound_appends (jbypassBody_appends _ s n)⟩
  | jidchk => exact ⟨_, rfl, start.with_results.after_finish .eNone⟩
  | slrst => exact ⟨_, rfl, whenSBound_appends (start.after_lineReset.after_finish _)⟩
  | swake => exact ⟨_, rfl, whenSBound_appends (start.after_wake.after_finish _)⟩
  | sj2s => exact ⟨_, rfl, whenSBound_appends (start.after_switchToSwd.after_finish _)⟩
  | ss2j => exact ⟨_, rfl, whenSBound_appends (start.after_switchToJtag.after_finish _)⟩
  | sidcode => exact ⟨_, rfl, whenSBound_appends start.after_idcodeTxn⟩
  | sprobe => exact ⟨_, rfl, whenSBound_appends (sprobeBody_appends _ s)⟩

/-- Settles O21: every primitive appends at most its own event, so every sequence of them only appends. -/
theorem traceGrowsByAnswers : Obligations.TraceGrowsByAnswers := by
  unfold Obligations.TraceGrowsByAnswers
  intro i s t h
  obtain ⟨u, hu, happ⟩ := exec_appends i s
  rw [hu] at h
  injection h with hut
  subst hut
  exact happ

end Sys2Proof.Machine

/-! ### Two runs in step (R25, R36, R44)

What a command does to the state, said once (`InStep`), for two runs that differ in the TAP shadow alone. It asks
nothing of the state. What a command leaves unchanged, which lines it touches and that the shadow decides nothing are
each one induction over it. -/

namespace Sys2Proof.Machine

/-! ### Line files -/

theorem getD_setOut_dir (i l : Nat) (v : Bool) (ls : List Line) :
    ((setOut i v ls).getD l Line.atReset).dir = (ls.getD l Line.atReset).dir := by
  by_cases hil : i = l
  · subst hil
    by_cases hi : i < ls.length
    · simp [setOut, List.getD, hi]
    · simp [setOut, List.set_eq_of_length_le (Nat.le_of_not_lt hi)]
  · rw [getD_setOut_ne hil]

/-- Driving any line low keeps a low line low. -/
theorem getD_setOut_low (i : Nat) {l : Nat} {ls : List Line} (h : (ls.getD l Line.atReset).out = false) :
    ((setOut i false ls).getD l Line.atReset).out = false := by
  by_cases hil : i = l
  · subst hil
    rw [setOut_self h]
    exact h
  · rw [getD_setOut_ne hil]
    exact h

theorem drive_line_eq (r : Role) (v : Bool) (s : State) (l : Nat) :
    (drive r v s).line l = (setOut (s.role r) v s.lines).getD l Line.atReset := rfl

/-- A `Pulse` (R100) leaves TCK low. -/
theorem pulse_line_eq (env : Oracle) (s : State) (l : Nat) :
    (pulse env s).2.line l = (setOut (s.role .tck) false s.lines).getD l Line.atReset := by
  rw [← setOut_setOut (s.role .tck) true false s.lines]
  rfl

/-- One SWCLK clock (R152) leaves SWCLK low. -/
theorem swdTurn_line_eq (s : State) (l : Nat) :
    (swdTurn s).line l = (setOut (s.role .swclk) false s.lines).getD l Line.atReset := by
  rw [← setOut_setOut (s.role .swclk) true false s.lines]
  rfl

theorem cfg_line_ne {k l : Nat} (h : k ≠ l) (d : Dir) (v : Option Bool) (s : State) :
    (cfg k d v s).line l = s.line l := by
  simp [State.line, List.getD, h]

theorem pulse_lines_length (env : Oracle) (s : State) : (pulse env s).2.lines.length = s.lines.length := by
  simp [pulse, withOut_lines_eq]

theorem swdTurn_lines_length (s : State) : (swdTurn s).lines.length = s.lines.length := by
  simp [swdTurn, withOut_lines_eq]

/-! ### The shadow as a set (R42) -/

/-- R42: the updated shadow is the image of the old one. -/
theorem shadowNext_getLsbD (t : Bool) (m : BitVec 16) (q : TapState) :
    (shadowNext t m).getLsbD q.number = true ↔ ∃ p : TapState, m.getLsbD p.number = true ∧ p.next t = q := by
  rw [shadowNext, foldl_or_getLsbD (fun p => tapBit (p.next t)) (fun p => m.getLsbD p.number)]
  simp [tapBit_getLsbD, mem_tapStates]

theorem shadowNext_ne_zero (t : Bool) {m : BitVec 16} (h : m ≠ 0#16) : shadowNext t m ≠ 0#16 := by
  obtain ⟨p, hp⟩ := shadow_ne_zero.mp h
  exact shadow_ne_zero.mpr ⟨p.next t, (shadowNext_getLsbD t m _).mpr ⟨p, hp, rfl⟩⟩

theorem tapBit_ne_zero (q : TapState) : tapBit q ≠ 0#16 :=
  shadow_ne_zero.mpr ⟨q, by simp [tapBit_getLsbD]⟩

theorem pulseShadow_ne_zero (s : State) (t : Bool) (h : s.tapShadow ≠ 0#16) : s.pulseShadow t ≠ 0#16 := by
  unfold State.pulseShadow
  split
  · exact tapBit_ne_zero _
  · exact shadowNext_ne_zero t h

/-! ### The relation -/

/-- How far a command may go beyond changing levels: not at all, turning SWDIO around (R152), or configuring candidate
lines and changing the bound flags (R91 to R93). -/
inductive Scope where
  | levels
  | swdio
  | binding

/-- The lines a sequence from `s` may configure. -/
def Scope.configures (sc : Scope) (s : State) (l : Nat) : Prop :=
  match sc with
  | .levels => False
  | .swdio => s.sbound = true ∧ l = s.role .swdio
  | .binding => s.owns l = true

/-- The role's protocol is bound, and TRST is enabled if it is TRST (R183). -/
def State.roleBound (s : State) : Role → Prop
  | .trst => s.jbound = true ∧ s.trstEn = true
  | .swclk => s.sbound = true
  | .swdio => s.sbound = true
  | _ => s.jbound = true

/-- `IDBUF` has its size, `CNT` is in range and `SWD_OK` comes with ACK OK (R24, R27, R33). -/
def State.ResultsInRange (s : State) : Prop :=
  s.idbuf.length = s.params.maxDevices ∧ s.cnt.toNat ≤ s.params.maxDevices ∧ (s.swdOk = true → s.swdAck = ackOk)

/-- `f` writes result registers of `t` (R24, R26, R27, R32, R33), values in range that do not depend on the shadow. -/
structure WritesResults (f : State → State) (t : State) : Prop where
  frame : f t = { t with
    valid := (f t).valid, echoMatch := (f t).echoMatch, swdOk := (f t).swdOk, swdParity := (f t).swdParity
    swdAck := (f t).swdAck, acc := (f t).acc, cnt := (f t).cnt, swdIdcode := (f t).swdIdcode, idbuf := (f t).idbuf }
  blind : ∀ m, f { t with tapShadow := m } = { f t with tapShadow := m }
  inRange : t.ResultsInRange → (f t).ResultsInRange

/-- `t` and `t'` come from `s`, and from `s` with another TAP shadow, by the same operations within the scope. A clock
line moves in whole pulses only. -/
inductive InStep (env : Oracle) (sc : Scope) (s : State) : State → State → Prop
  | start (m : BitVec 16) : InStep env sc s s { s with tapShadow := m }
  | configured {t t' : State} (h : InStep env sc s t t') (l : Nat) (d : Dir) (v : Option Bool)
      (hl : sc.configures s l) : InStep env sc s (cfg l d v t) (cfg l d v t')
  | driven {t t' : State} (h : InStep env sc s t t') (r : Role) (v : Bool) (hr : s.roleBound r)
      (hck : r ≠ .tck ∧ r ≠ .swclk) : InStep env sc s (drive r v t) (drive r v t')
  | sampled {t t' : State} (h : InStep env sc s t t') (r : Role) (hr : s.roleBound r) :
      InStep env sc s (sample env r t).2 (sample env r t').2
  | pulsed {t t' : State} (h : InStep env sc s t t') (hj : s.jbound = true) :
      InStep env sc s (pulse env t).2 (pulse env t').2
  | clocked {t t' : State} (h : InStep env sc s t t') (hb : s.sbound = true) :
      InStep env sc s (swdTurn t) (swdTurn t')
  | written {t t' : State} (h : InStep env sc s t t') (f : State → State) (hf : WritesResults f t) :
      InStep env sc s (f t) (f t')
  | shadowSet {t t' : State} (h : InStep env sc s t t') (k : BitVec 16) (hk : k ≠ 0#16) :
      InStep env sc s { t with tapShadow := k } { t' with tapShadow := k }
  | flagsSet {t t' : State} (h : InStep env sc s t t') (hsc : sc = .binding) (j b : Bool) :
      InStep env sc s { t with jbound := j, sbound := b } { t' with jbound := j, sbound := b }

/-- The registers only the host writes, the parameters and the model's own fields are the same (R25, R28 to R31). -/
structure HostKept (s t : State) : Prop where
  cmd : t.cmd = s.cmd
  pat : t.pat = s.pat
  cand : t.cand = s.cand
  linecfg : t.linecfg = s.linecfg
  pinmapJtag : t.pinmapJtag = s.pinmapJtag
  pinmapAux : t.pinmapAux = s.pinmapAux
  params : t.params = s.params
  resets : t.resets = s.resets
  inputs : t.inputs = s.inputs
  replies : t.replies = s.replies

section HostKept
variable {s t : State} (h : HostKept s t)
include h

theorem HostKept.role (r : Role) : t.role r = s.role r := by
  cases r <;> simp [State.role, h.pinmapJtag, h.pinmapAux]

theorem HostKept.trstEn : t.trstEn = s.trstEn := by simp [State.trstEn, h.pinmapAux]

theorem HostKept.owns : t.owns = s.owns := by
  funext l
  simp [State.owns, h.params, h.cand]

theorem HostKept.jtagBindable : t.jtagBindable = s.jtagBindable := by
  simp [State.jtagBindable, State.jtagLines, h.role, h.trstEn, h.owns]

theorem HostKept.swdBindable : t.swdBindable = s.swdBindable := by
  simp [State.swdBindable, State.swdLines, h.role, h.owns]

theorem HostKept.regsLegal (hs : s.RegsLegal) : t.RegsLegal := by
  simpa only [State.RegsLegal, h.params, h.cand, h.linecfg, h.pinmapJtag, h.pinmapAux] using hs

end HostKept

/-- The lines a sequence from `s` may touch. -/
def Scope.touches (sc : Scope) (s : State) (l : Nat) : Prop :=
  sc.configures s l ∨ ∃ r, s.roleBound r ∧ s.role r = l

section InStep
variable {env : Oracle} {sc : Scope} {s t t' : State}

/-- The two runs still differ in the shadow alone (R44). -/
theorem InStep.same (h : InStep env sc s t t') : ∃ m, t' = { t with tapShadow := m } := by
  induction h with
  | start m => exact ⟨m, rfl⟩
  | configured _ _ _ _ _ ih => obtain ⟨m, rfl⟩ := ih; exact ⟨m, rfl⟩
  | driven _ _ _ _ _ ih => obtain ⟨m, rfl⟩ := ih; exact ⟨m, rfl⟩
  | sampled _ _ _ ih => obtain ⟨m, rfl⟩ := ih; exact ⟨m, rfl⟩
  | pulsed _ _ ih => obtain ⟨m, rfl⟩ := ih; exact ⟨_, rfl⟩
  | clocked _ _ ih => obtain ⟨m, rfl⟩ := ih; exact ⟨m, rfl⟩
  | written _ f hf ih => obtain ⟨m, rfl⟩ := ih; exact ⟨m, hf.blind m⟩
  | shadowSet _ k _ ih => obtain ⟨m, rfl⟩ := ih; exact ⟨k, rfl⟩
  | flagsSet _ _ _ _ ih => obtain ⟨m, rfl⟩ := ih; exact ⟨m, rfl⟩

theorem InStep.host (h : InStep env sc s t t') : HostKept s t := by
  induction h with
  | start => exact ⟨rfl, rfl, rfl, rfl, rfl, rfl, rfl, rfl, rfl, rfl⟩
  | written _ f hf ih =>
    rw [hf.frame]
    exact { ih with }
  | _ => rename_i ih; exact { ih with }

theorem InStep.lines_length (h : InStep env sc s t t') : t.lines.length = s.lines.length := by
  induction h with
  | start => rfl
  | configured _ _ _ _ _ ih => simpa using ih
  | driven _ _ _ _ _ ih => simpa [withOut_lines_eq] using ih
  | sampled _ _ _ ih => exact ih
  | pulsed _ _ ih => rw [pulse_lines_length, ih]
  | clocked _ _ ih => rw [swdTurn_lines_length, ih]
  | written _ f hf ih => rw [hf.frame]; exact ih
  | shadowSet _ _ _ ih => exact ih
  | flagsSet _ _ _ _ ih => exact ih

/-- Only the binding commands change the bound flags (R34). -/
theorem InStep.flags (h : InStep env sc s t t') (hsc : sc ≠ .binding) :
    t.jbound = s.jbound ∧ t.sbound = s.sbound := by
  induction h with
  | start => exact ⟨rfl, rfl⟩
  | written _ f hf ih => rw [hf.frame]; exact ih
  | flagsSet _ hb _ _ _ => exact absurd hb hsc
  | _ => assumption

theorem InStep.resultsInRange (h : InStep env sc s t t') (hs : s.ResultsInRange) : t.ResultsInRange := by
  induction h with
  | start => exact hs
  | written _ f hf ih => exact hf.inRange ih
  | _ => assumption

/-- The shadow set keeps a member (R40). -/
theorem InStep.shadow_ne_zero (h : InStep env sc s t t') (hs : s.tapShadow ≠ 0#16) : t.tapShadow ≠ 0#16 := by
  induction h with
  | start => exact hs
  | pulsed _ _ ih => exact pulseShadow_ne_zero _ _ ih
  | written _ f hf ih => rw [hf.frame]; exact ih
  | shadowSet _ _ hk _ => exact hk
  | _ => assumption

/-- A line that is not configured keeps its direction. -/
theorem InStep.dir (h : InStep env sc s t t') {l : Nat} (hl : ¬ sc.configures s l) :
    (t.line l).dir = (s.line l).dir := by
  induction h with
  | start => rfl
  | configured _ k _ _ hk ih => rwa [cfg_line_ne (by rintro rfl; exact hl hk)]
  | driven _ _ _ _ _ ih => rw [drive_line_eq, getD_setOut_dir]; exact ih
  | sampled _ _ _ ih => exact ih
  | pulsed _ _ ih => rw [pulse_line_eq, getD_setOut_dir]; exact ih
  | clocked _ _ ih => rw [swdTurn_line_eq, getD_setOut_dir]; exact ih
  | written _ f hf ih => rw [hf.frame]; exact ih
  | shadowSet _ _ _ ih => exact ih
  | flagsSet _ _ _ _ ih => exact ih

/-- A clock line that rests low, and is no other bound role's line, rests low again (R100, R152). -/
theorem InStep.clock_low (h : InStep env sc s t t') {l : Nat} (hl : ¬ sc.configures s l)
    (hne : ∀ r, s.roleBound r → r ≠ .tck ∧ r ≠ .swclk → s.role r ≠ l) (hlow : (s.line l).out = false) :
    (t.line l).out = false := by
  induction h with
  | start => exact hlow
  | configured _ k _ _ hk ih => rwa [cfg_line_ne (by rintro rfl; exact hl hk)]
  | driven h r _ hr hck ih =>
    rw [drive_line_eq, h.host.role, getD_setOut_ne (hne r hr hck)]
    exact ih
  | sampled _ _ _ ih => exact ih
  | pulsed _ _ ih => rw [pulse_line_eq]; exact getD_setOut_low _ ih
  | clocked _ _ ih => rw [swdTurn_line_eq]; exact getD_setOut_low _ ih
  | written _ f hf ih => rw [hf.frame]; exact ih
  | shadowSet _ _ _ ih => exact ih
  | flagsSet _ _ _ _ ih => exact ih

theorem InStep.line_untouched (h : InStep env sc s t t') {l : Nat} (hl : ¬ sc.touches s l) : t.line l = s.line l := by
  have hrole : ∀ r, s.roleBound r → s.role r ≠ l := fun r hr hrl => hl (.inr ⟨r, hr, hrl⟩)
  induction h with
  | start => rfl
  | configured _ k _ _ hk ih => rwa [cfg_line_ne (by rintro rfl; exact hl (.inl hk))]
  | driven h r _ hr _ ih =>
    rw [drive_line_eq, h.host.role, getD_setOut_ne (hrole r hr)]
    exact ih
  | sampled _ _ _ ih => exact ih
  | pulsed h hj ih =>
    rw [pulse_line_eq, h.host.role, getD_setOut_ne (hrole .tck hj)]
    exact ih
  | clocked h hb ih =>
    rw [swdTurn_line_eq, h.host.role, getD_setOut_ne (hrole .swclk hb)]
    exact ih
  | written _ f hf ih => rw [hf.frame]; exact ih
  | shadowSet _ _ _ ih => exact ih
  | flagsSet _ _ _ _ ih => exact ih

/-- Every new event is about a line the sequence may touch. -/
def EventsTouch (sc : Scope) (s t : State) : Prop :=
  ∃ new, t.trace = s.trace ++ new ∧ ∀ e ∈ new, sc.touches s e.line

theorem EventsTouch.append {u : State} (h : EventsTouch sc s t) (es : List Event) (hu : u.hist = es.reverse ++ t.hist)
    (hes : ∀ e ∈ es, sc.touches s e.line) : EventsTouch sc s u := by
  obtain ⟨new, htrace, hnew⟩ := h
  have ht : u.trace = t.trace ++ es := by simp [State.trace, hu]
  refine ⟨new ++ es, by rw [ht, htrace, List.append_assoc], ?_⟩
  intro e he
  exact (List.mem_append.mp he).elim (hnew e) (hes e)

theorem InStep.eventsTouch (h : InStep env sc s t t') : EventsTouch sc s t := by
  induction h with
  | start => exact ⟨[], by simp, by simp⟩
  | configured _ l d v hl ih => exact ih.append [.cfg l d v] rfl (by simpa [Event.line] using .inl hl)
  | @driven t _ h r v hr _ ih =>
    exact ih.append [.drive (t.role r) v] rfl (by simpa [Event.line, h.host.role] using .inr ⟨r, hr, rfl⟩)
  | @sampled t _ h r hr ih =>
    exact ih.append [.sample (t.role r) (env t.hist (t.role r))] rfl
      (by simpa [Event.line, h.host.role] using .inr ⟨r, hr, rfl⟩)
  | @pulsed t _ h hj ih =>
    refine ih.append
      [.drive (t.role .tck) true, .sample (t.role .tdo) (pulse env t).1, .drive (t.role .tck) false] rfl ?_
    have htck : sc.touches s (s.role .tck) := .inr ⟨.tck, hj, rfl⟩
    have htdo : sc.touches s (s.role .tdo) := .inr ⟨.tdo, hj, rfl⟩
    simp [Event.line, h.host.role, htck, htdo]
  | @clocked t _ h hb ih =>
    refine ih.append (swdClockShape t) rfl ?_
    have hclk : sc.touches s (s.role .swclk) := .inr ⟨.swclk, hb, rfl⟩
    simp [swdClockShape, Event.line, h.host.role, hclk]
  | written _ f hf ih => exact ih.append [] (by rw [hf.frame]; rfl) (by simp)
  | shadowSet _ _ _ ih => exact ih
  | flagsSet _ _ _ _ ih => exact ih

end InStep
end Sys2Proof.Machine

/-! ### Every command runs in step -/

namespace Sys2Proof.Machine

section Sequences
variable {env : Oracle} {sc : Scope} {s t t' : State}

theorem InStep.params_eq (h : InStep env sc s t t') : t'.params = t.params := by
  obtain ⟨m, rfl⟩ := h.same
  rfl

theorem InStep.pat_eq (h : InStep env sc s t t') : t'.pat = t.pat := by
  obtain ⟨m, rfl⟩ := h.same
  rfl

theorem InStep.configuredRole (h : InStep env sc s t t') (r : Role) (d : Dir) (v : Option Bool)
    (hr : sc.configures s (s.role r)) : InStep env sc s (cfg (t.role r) d v t) (cfg (t'.role r) d v t') := by
  rw [← h.host.role] at hr
  have hrole : t'.role r = t.role r := by
    obtain ⟨m, rfl⟩ := h.same
    cases r <;> rfl
  rw [hrole]
  exact h.configured (t.role r) d v hr

/-! ### JTAG sequences (R100 to R105, R130 to R133) -/

theorem InStep.pulse_bit (h : InStep env sc s t t') : (pulse env t').1 = (pulse env t).1 := by
  obtain ⟨m, rfl⟩ := h.same
  rfl

section Jtag
variable (hj : s.jbound = true)
include hj

theorem InStep.after_pulses : ∀ (n : Nat) {t t' : State}, InStep env sc s t t' →
    InStep env sc s (pulses env n t) (pulses env n t')
  | 0, _, _, h => h
  | n + 1, _, _, h => after_pulses n (h.pulsed hj)

theorem InStep.after_tmsSeq : ∀ (ts : List Bool) {t t' : State}, InStep env sc s t t' →
    InStep env sc s (tmsSeq env ts t) (tmsSeq env ts t')
  | [], _, _, h => h
  | v :: ts, _, _, h => after_tmsSeq ts ((h.driven .tms v hj (by decide)).pulsed hj)

theorem InStep.after_driveExit (h : InStep env sc s t t') (last : Bool) :
    InStep env sc s (driveExit last t) (driveExit last t') := by
  cases last with
  | false => exact h
  | true => exact h.driven .tms true hj (by decide)

theorem InStep.after_flood (exitLast : Bool) : ∀ (n : Nat) {t t' : State}, InStep env sc s t t' →
    InStep env sc s (flood env exitLast n t) (flood env exitLast n t')
  | 0, _, _, h => h
  | n + 1, _, _, h => after_flood exitLast n ((h.after_driveExit hj _).pulsed hj)

theorem InStep.after_shiftLoop : ∀ (n : Nat) (q acc : Word) {t t' : State}, InStep env sc s t t' →
    (shiftLoop env n q acc t').1 = (shiftLoop env n q acc t).1 ∧
      InStep env sc s (shiftLoop env n q acc t).2 (shiftLoop env n q acc t').2
  | 0, _, _, _, _, h => ⟨rfl, h⟩
  | n + 1, q, acc, t, t', h => by
    have hbit := (h.after_driveExit hj (n == 0)).driven .tdi (q.getLsbD 0) hj (by decide)
    simp only [shiftLoop, hbit.pulse_bit]
    exact after_shiftLoop n _ _ (hbit.pulsed hj)

theorem InStep.after_shiftArray (h : InStep env sc s t t') (p : Word) (n : Nat) :
    (shiftArray env p n t').1 = (shiftArray env p n t).1 ∧
      InStep env sc s (shiftArray env p n t).2 (shiftArray env p n t').2 :=
  h.after_shiftLoop hj n p 0#32

theorem InStep.after_countZeros : ∀ (n c : Nat) {t t' : State}, InStep env sc s t t' →
    (countZeros env n c t').1 = (countZeros env n c t).1 ∧
      InStep env sc s (countZeros env n c t).2 (countZeros env n c t').2
  | 0, _, _, _, h => ⟨rfl, h⟩
  | n + 1, c, t, t', h => by
    simp only [countZeros, h.pulse_bit]
    split
    · exact ⟨rfl, h.pulsed hj⟩
    · exact after_countZeros n (c + 1) (h.pulsed hj)

theorem InStep.after_pulseWord : ∀ (n : Nat) (w : Word) {t t' : State}, InStep env sc s t t' →
    (pulseWord env n w t').1 = (pulseWord env n w t).1 ∧
      InStep env sc s (pulseWord env n w t).2 (pulseWord env n w t').2
  | 0, _, _, _, h => ⟨rfl, h⟩
  | n + 1, w, t, t', h => by
    simp only [pulseWord, h.pulse_bit]
    exact after_pulseWord n _ (h.pulsed hj)

theorem InStep.after_readWords : ∀ (n : Nat) {t t' : State}, InStep env sc s t t' →
    (readWords env n t').1 = (readWords env n t).1 ∧ InStep env sc s (readWords env n t).2 (readWords env n t').2
  | 0, _, _, h => ⟨rfl, h⟩
  | n + 1, t, t', h => by
    obtain ⟨hword, hnext⟩ := h.after_pulseWord hj 32 0#32
    obtain ⟨hwords, hlast⟩ := after_readWords n hnext
    simp only [readWords, hword, hwords]
    exact ⟨trivial, hlast⟩

theorem InStep.after_detectFlood (h : InStep env sc s t t') :
    InStep env sc s (detectFlood env t) (detectFlood env t') := by
  have hfill := (h.after_tmsSeq hj [true, true, false, false]).driven .tdi true hj (by decide)
  simp only [detectFlood, enterShiftIr, hfill.params_eq]
  split
  · exact hfill.after_flood hj false _
  · exact ((hfill.after_flood hj true _).after_tmsSeq hj _).after_tmsSeq hj _

/-- Phase 2 of `JDETECT` (R130). -/
theorem InStep.after_zeroFill (h : InStep env sc s t t') :
    InStep env sc s (pulses env t.params.irZeroBits (drive .tdi false t))
      (pulses env t'.params.irZeroBits (drive .tdi false t')) := by
  rw [h.params_eq]
  exact (h.driven .tdi false hj (by decide)).after_pulses hj _

/-- Phase 3 of `JDETECT` (R130). -/
theorem InStep.after_zeroCount (h : InStep env sc s t t') :
    (countZeros env (t'.params.maxDevices + 1) 0 (drive .tdi true t')).1 =
        (countZeros env (t.params.maxDevices + 1) 0 (drive .tdi true t)).1 ∧
      InStep env sc s (countZeros env (t.params.maxDevices + 1) 0 (drive .tdi true t)).2
        (countZeros env (t'.params.maxDevices + 1) 0 (drive .tdi true t')).2 := by
  rw [h.params_eq]
  exact (h.driven .tdi true hj (by decide)).after_countZeros hj _ 0

theorem InStep.after_enterBypass (h : InStep env sc s t t') :
    InStep env sc s (enterBypass env t) (enterBypass env t') := by
  have htdi : InStep env sc s (drive .tdi true (enterShiftIr env (restoreIdle env t)))
      (drive .tdi true (enterShiftIr env (restoreIdle env t'))) :=
    ((h.after_tmsSeq hj _).after_tmsSeq hj _).driven .tdi true hj (by decide)
  simp only [enterBypass, htdi.params_eq]
  exact ((htdi.after_flood hj true _).after_tmsSeq hj _).after_tmsSeq hj _

end Jtag

/-! ### SWD sequences (R150 to R159) -/

section Swd
variable (hb : s.sbound = true)
include hb

theorem InStep.after_swdWrites : ∀ (bs : List Bool) {t t' : State}, InStep env sc s t t' →
    InStep env sc s (swdWrites bs t) (swdWrites bs t')
  | [], _, _, h => h
  | b :: bs, _, _, h => after_swdWrites bs ((h.driven .swdio b hb (by decide)).clocked hb)

theorem InStep.after_swdRead (h : InStep env sc s t t') :
    (swdRead env t').1 = (swdRead env t).1 ∧ InStep env sc s (swdRead env t).2 (swdRead env t').2 := by
  refine ⟨?_, (h.sampled .swdio hb).clocked hb⟩
  obtain ⟨m, rfl⟩ := h.same
  rfl

theorem InStep.after_swdReads : ∀ (n : Nat) {t t' : State}, InStep env sc s t t' →
    (swdReads env n t').1 = (swdReads env n t).1 ∧ InStep env sc s (swdReads env n t).2 (swdReads env n t').2
  | 0, _, _, h => ⟨rfl, h⟩
  | n + 1, t, t', h => by
    obtain ⟨hbit, hnext⟩ := h.after_swdRead hb
    obtain ⟨hbits, hlast⟩ := after_swdReads n hnext
    simp only [swdReads, hbit, hbits]
    exact ⟨trivial, hlast⟩

theorem InStep.after_lineReset (h : InStep env sc s t t') : InStep env sc s (lineReset t) (lineReset t') := by
  rw [lineReset, lineReset, h.params_eq]
  exact h.after_swdWrites hb _

theorem InStep.after_wake (h : InStep env sc s t t') : InStep env sc s (wake t) (wake t') :=
  ((h.after_swdWrites hb _).after_swdWrites hb _).after_swdWrites hb _

theorem InStep.after_switchToSwd (h : InStep env sc s t t') : InStep env sc s (switchToSwd t) (switchToSwd t') :=
  (h.after_lineReset hb).after_swdWrites hb _

theorem InStep.after_switchToJtag (h : InStep env sc s t t') : InStep env sc s (switchToJtag t) (switchToJtag t') :=
  (h.after_lineReset hb).after_swdWrites hb _

theorem InStep.after_idleCycles (h : InStep env sc s t t') : InStep env sc s (idleCycles t) (idleCycles t') := by
  rw [idleCycles, idleCycles, h.params_eq]
  exact h.after_swdWrites hb _

theorem InStep.after_closeTransaction (h : InStep env .swdio s t t') :
    InStep env .swdio s (closeTransaction t) (closeTransaction t') :=
  (h.clocked hb).configuredRole .swdio .output (some false) ⟨hb, rfl⟩

end Swd

/-! ### Binding sequences (R91 to R93) -/

theorem InStep.after_makeInputs : ∀ (ls : List Nat) {t t' : State}, (∀ l ∈ ls, sc.configures s l) →
    InStep env sc s t t' → InStep env sc s (makeInputs ls t) (makeInputs ls t')
  | [], _, _, _, h => h
  | l :: ls, _, _, hls, h =>
    after_makeInputs ls (fun k hk => hls k (.tail l hk)) (h.configured l .input none (hls l (.head ls)))

/-- The candidate lines become inputs. -/
theorem InStep.inputs (env : Oracle) (s : State) (m : BitVec 16) :
    InStep env .binding s (makeInputs s.candLines s) (makeInputs s.candLines { s with tapShadow := m }) :=
  (InStep.start m).after_makeInputs s.candLines (fun l hl => (mem_candLines s l).mp hl)

theorem jtagBindable_iff (s : State) :
    s.jtagBindable = true ↔ s.jtagLines.Nodup ∧ ∀ l ∈ s.jtagLines, s.owns l = true := by
  simp [State.jtagBindable]

theorem swdBindable_iff (s : State) :
    s.swdBindable = true ↔ s.swdLines.Nodup ∧ ∀ l ∈ s.swdLines, s.owns l = true := by
  simp [State.swdBindable]

theorem InStep.after_bindTrst (h : InStep env sc s t t')
    (hcfg : s.trstEn = true → sc.configures s (s.role .trst)) :
    InStep env sc s (bindTrst t) (bindTrst t') := by
  have htrst' : t'.trstEn = t.trstEn := by
    obtain ⟨m, rfl⟩ := h.same
    rfl
  rw [bindTrst, bindTrst, htrst', h.host.trstEn]
  split
  next htrst => exact h.configuredRole .trst .output (some true) (hcfg htrst)
  next => exact h

theorem InStep.bindJtagLines (env : Oracle) (m : BitVec 16) (hbind : s.jtagBindable = true) :
    InStep env .binding s (bindJtagLines s) (bindJtagLines { s with tapShadow := m }) := by
  obtain ⟨-, howns⟩ := (jtagBindable_iff s).mp hbind
  have htck := (InStep.inputs env s m).configuredRole .tck .output (some false) (howns _ (by simp [State.jtagLines]))
  have htms := htck.configuredRole .tms .output (some true) (howns _ (by simp [State.jtagLines]))
  have htdi := htms.configuredRole .tdi .output (some false) (howns _ (by simp [State.jtagLines]))
  exact htdi.after_bindTrst fun htrst => howns _ (by simp [State.jtagLines, htrst])

theorem InStep.bindSwdLines (env : Oracle) (m : BitVec 16) (hbind : s.swdBindable = true) :
    InStep env .binding s (bindSwdLines s) (bindSwdLines { s with tapShadow := m }) := by
  obtain ⟨-, howns⟩ := (swdBindable_iff s).mp hbind
  have hclk := (InStep.inputs env s m).configuredRole .swclk .output (some false) (howns _ (by simp [State.swdLines]))
  exact hclk.configuredRole .swdio .output (some true) (howns _ (by simp [State.swdLines]))

end Sequences
end Sys2Proof.Machine

/-! ### Commands -/

namespace Sys2Proof.Machine

/-- The body, run from `s` and from `s` with another TAP shadow, ends with the same code after runs in step. -/
def FinishesInStep (env : Oracle) (sc : Scope) (body : State → State) (s : State) : Prop :=
  ∀ m, ∃ c u u', InStep env sc s u u' ∧ body s = finish c u ∧ body { s with tapShadow := m } = finish c u'

theorem detectCount_le (p : Params) (c : Nat) : (detectCount p c).toNat ≤ p.maxDevices := by
  unfold detectCount
  split
  · simp
  next hc =>
    have hmod : c % 2 ^ 32 ≤ c := Nat.mod_le _ _
    rw [BitVec.toNat_ofNat]
    omega

theorem readWords_length (env : Oracle) : ∀ (n : Nat) (s : State), (readWords env n s).1.length = n
  | 0, _ => rfl
  | n + 1, s => by simp [readWords, readWords_length env n]

section SwdFrames
variable (env : Oracle)

theorem swdWrites_swdOk : ∀ (bs : List Bool) (s : State), (swdWrites bs s).swdOk = s.swdOk
  | [], _ => rfl
  | b :: bs, s => swdWrites_swdOk bs (swdWrite b s)

theorem swdReads_swdOk : ∀ (n : Nat) (s : State), (swdReads env n s).2.swdOk = s.swdOk
  | 0, _ => rfl
  | n + 1, s => swdReads_swdOk n (swdRead env s).2

theorem swdReads_keeps_swdAck : ∀ (n : Nat) (s : State), (swdReads env n s).2.swdAck = s.swdAck
  | 0, _ => rfl
  | n + 1, s => swdReads_keeps_swdAck n (swdRead env s).2

/-- The parity bit and the closing turnaround (R158) keep `SWD_ACK`. -/
theorem closing_keeps_swdAck (s : State) : (closeTransaction (swdRead env s).2).swdAck = s.swdAck := by
  simp [closeTransaction, swdRead, swdTurn]

end SwdFrames

section Commands
variable {env : Oracle} {sc : Scope} {s t t' : State} {body : State → State}

/-- Writing a value on which the two runs agree. -/
theorem InStep.written_value {α : Type} (h : InStep env sc s t t') {x x' : α} (hx : x' = x)
    (f : α → State → State) (hf : WritesResults (f x) t) : InStep env sc s (f x t) (f x' t') := by
  subst hx
  exact h.written (f x') hf

/-- The results of a transaction after ACK OK (R158). -/
theorem writesResults_idcode (hack : t.swdAck = ackOk) (id : Word) (parity : Bool) :
    WritesResults (fun u => { u with swdIdcode := id, swdParity := parity, swdOk := true }) t :=
  ⟨rfl, fun _ => rfl, fun ⟨hbuf, hcnt, _⟩ => ⟨hbuf, hcnt, fun _ => hack⟩⟩

/-- `raise` (R15). -/
theorem raiseError_inStep (env : Oracle) (sc : Scope) (c : Code) (s : State) :
    FinishesInStep env sc (raiseError c) s :=
  fun m => ⟨c, _, _, .start m, rfl, rfl⟩

/-- A body that is one of two, by a test that does not look at the shadow. -/
theorem FinishesInStep.ite {other : State → State} (p : State → Prop) [DecidablePred p]
    (hp : ∀ m, p { s with tapShadow := m } ↔ p s) (hbody : p s → FinishesInStep env sc body s)
    (hother : ¬ p s → FinishesInStep env sc other s) :
    FinishesInStep env sc (fun u => if p u then body u else other u) s := by
  intro m
  simp only [hp]
  split
  next h => exact hbody h m
  next h => exact hother h m

theorem whenJBound_inStep (h : s.jbound = true → FinishesInStep env sc body s) :
    FinishesInStep env sc (whenJBound body) s :=
  .ite (fun u => u.jbound = true) (fun _ => Iff.rfl) h fun _ => raiseError_inStep env sc _ s

theorem whenSBound_inStep (h : s.sbound = true → FinishesInStep env sc body s) :
    FinishesInStep env sc (whenSBound body) s :=
  .ite (fun u => u.sbound = true) (fun _ => Iff.rfl) h fun _ => raiseError_inStep env sc _ s

/-! ### JTAG commands -/

section Jtag
variable (hj : s.jbound = true)
include hj

theorem jshiftBody_inStep (n : Nat) : FinishesInStep env sc (jshiftBody env n) s := by
  intro m
  obtain ⟨hacc, hshift⟩ := (InStep.start m).after_shiftArray hj s.pat n
  exact ⟨.eNone, _, _,
    hshift.written_value hacc (fun x u => { u with acc := x }) ⟨rfl, fun _ => rfl, id⟩, rfl, rfl⟩

theorem jsendBody_inStep (n : Nat) : FinishesInStep env sc (jsendBody env n) s := by
  refine .ite (fun _ => n = 0) (fun _ => Iff.rfl) (fun _ => raiseError_inStep env sc _ s) fun _ m => ?_
  have hwalk : InStep env sc s (enterShiftDr env s) (enterShiftDr env { s with tapShadow := m }) :=
    (InStep.start m).after_tmsSeq hj _
  simp only [hwalk.pat_eq]
  obtain ⟨hacc, hshift⟩ := hwalk.after_shiftArray hj (enterShiftDr env s).pat n
  have hwrite := hshift.written_value hacc (fun x u => { u with acc := x }) ⟨rfl, fun _ => rfl, id⟩
  exact ⟨.eNone, _, _, hwrite.after_tmsSeq hj _, rfl, rfl⟩

theorem jtrstBody_inStep (b : Bool) : FinishesInStep env sc (jtrstBody b) s := by
  refine .ite (fun u => u.trstEn = true) (fun _ => Iff.rfl) (fun hen m => ?_) (fun _ => raiseError_inStep env sc _ s)
  have hdrive := (InStep.start (env := env) (sc := sc) m).driven .trst b ⟨hj, hen⟩ (by decide)
  cases b with
  | true => exact ⟨.eNone, _, _, hdrive, rfl, rfl⟩
  | false => exact ⟨.eNone, _, _, hdrive.shadowSet _ (tapBit_ne_zero .testLogicReset), rfl, rfl⟩

theorem jdetectBody_inStep : FinishesInStep env sc (jdetectBody env) s := by
  intro m
  have hflood := ((InStep.start (env := env) (sc := sc) m).after_tmsSeq hj idleLevels).after_detectFlood hj
  obtain ⟨hcnt, hcount⟩ := (hflood.after_zeroFill hj).after_zeroCount hj
  have hwrite := (hcount.after_tmsSeq hj idleLevels).written_value hcnt
    (fun x u => { u with cnt := detectCount u.params x })
    ⟨rfl, fun _ => rfl, fun ⟨hbuf, _, hack⟩ => ⟨hbuf, detectCount_le _ _, hack⟩⟩
  exact ⟨.eNone, _, _, hwrite, rfl, rfl⟩

/-- The words of `JIDS` and their place in `IDBUF` (R132). -/
theorem InStep.after_readIdbuf (h : InStep env sc s t t') (n : Nat) (hn : n ≤ s.params.maxDevices) :
    InStep env sc s
      { (readWords env n t).2 with
        idbuf := (readWords env n t).1 ++ List.replicate (t.params.maxDevices - n) 0#32 }
      { (readWords env n t').2 with
        idbuf := (readWords env n t').1 ++ List.replicate (t'.params.maxDevices - n) 0#32 } := by
  obtain ⟨hwords, hread⟩ := h.after_readWords hj n
  rw [h.params_eq]
  refine hread.written_value hwords
    (fun x u => { u with idbuf := x ++ List.replicate (t.params.maxDevices - n) 0#32 }) ⟨rfl, fun _ => rfl, ?_⟩
  rintro ⟨-, hcnt, hack⟩
  refine ⟨?_, hcnt, hack⟩
  rw [List.length_append, readWords_length, List.length_replicate, hread.host.params, h.host.params]
  omega

theorem jidsBody_inStep (n : Nat) : FinishesInStep env sc (jidsBody env n) s := by
  refine .ite (fun u => n > u.params.maxDevices) (fun _ => Iff.rfl) (fun _ => raiseError_inStep env sc _ s)
    fun hn m => ?_
  have htdi := (((InStep.start (env := env) (sc := sc) m).after_tmsSeq hj idleLevels).after_tmsSeq hj
    [true, false, false]).driven .tdi true hj (by decide)
  exact ⟨.eNone, _, _, (htdi.after_readIdbuf hj n (Nat.le_of_not_gt hn)).after_tmsSeq hj _, rfl, rfl⟩

theorem jbypassBody_inStep (n : Nat) : FinishesInStep env sc (jbypassBody env n) s := by
  refine .ite (fun u => n > u.params.maxDevices) (fun _ => Iff.rfl) (fun _ => raiseError_inStep env sc _ s)
    fun _ m => ?_
  have henter := (InStep.start (env := env) (sc := sc) m).after_enterBypass hj
  simp only [henter.pat_eq]
  obtain ⟨hacc, hshift⟩ := henter.after_shiftArray hj (enterBypass env s).pat (32 + n)
  have hidle := (hshift.after_tmsSeq hj idleLevels).written_value hacc
    (fun x u => { u with acc := bitrev32 x, echoMatch := decide (bitrev32 x = u.pat) }) ⟨rfl, fun _ => rfl, id⟩
  exact ⟨.eNone, _, _, hidle, rfl, rfl⟩

end Jtag

/-! ### Line control commands -/

theorem lreleaseBody_inStep (env : Oracle) (s : State) : FinishesInStep env .binding lreleaseBody s :=
  fun m => ⟨.eNone, _, _, (InStep.inputs env s m).flagsSet rfl false false, rfl, rfl⟩

theorem jbindBody_inStep (env : Oracle) (s : State) : FinishesInStep env .binding jbindBody s := by
  refine .ite (fun u => u.jtagBindable = true) (fun _ => Iff.rfl) (fun hbind m => ?_)
    fun _ => raiseError_inStep env _ _ s
  have hlines := (InStep.bindJtagLines env m hbind).flagsSet rfl true false
  exact ⟨.eNone, _, _, hlines.shadowSet 0xFFFF#16 (by decide), rfl, rfl⟩

theorem sbindBody_inStep (env : Oracle) (s : State) : FinishesInStep env .binding sbindBody s := by
  refine .ite (fun u => u.swdBindable = true) (fun _ => Iff.rfl) (fun hbind m => ?_)
    fun _ => raiseError_inStep env _ _ s
  have hlines := (InStep.bindSwdLines env m hbind).flagsSet rfl false true
  exact ⟨.eNone, _, _, hlines.shadowSet 0xFFFF#16 (by decide), rfl, rfl⟩

/-! ### The IDCODE transaction (R158) -/

section Idcode
variable (hb : s.sbound = true)
include hb

theorem InStep.after_requestIdcode (h : InStep env .swdio s t t') :
    InStep env .swdio s (requestIdcode env t) (requestIdcode env t') := by
  have hclear := h.written (fun u => { u with swdOk := false })
    ⟨rfl, fun _ => rfl, fun ⟨hbuf, hcnt, _⟩ => ⟨hbuf, hcnt, by simp⟩⟩
  have hsend := hclear.after_swdWrites hb (lsbits swdHeader 8)
  have hturn := (hsend.configuredRole .swdio .input none ⟨hb, rfl⟩).clocked hb
  obtain ⟨hack, hread⟩ := hturn.after_swdReads hb 3
  refine hread.written_value hack (fun x u => { u with swdAck := firstBitLow 3 x }) ⟨rfl, fun _ => rfl, ?_⟩
  rintro ⟨hbuf, hcnt, -⟩
  have hclear' := (swdReads_swdOk env 3 _).trans (swdWrites_swdOk (lsbits swdHeader 8) { t with swdOk := false })
  exact ⟨hbuf, hcnt, fun hok => Bool.noConfusion (hclear'.symm.trans hok)⟩

theorem InStep.after_readIdcode (h : InStep env .swdio s t t') (hok : t.swdAck = ackOk) :
    ∃ u u', InStep env .swdio s u u' ∧
      readIdcode env t = finish .eNone u ∧ readIdcode env t' = finish .eNone u' := by
  obtain ⟨hdata, hread⟩ := h.after_swdReads hb 32
  obtain ⟨hparity, hlast⟩ := hread.after_swdRead hb
  have hack : (closeTransaction (swdRead env (swdReads env 32 t).2).2).swdAck = ackOk := by
    rw [closing_keeps_swdAck, swdReads_keeps_swdAck, hok]
  have hbits := congrArg₂ Prod.mk hdata hparity
  have hend := (hlast.after_closeTransaction hb).written_value hbits
    (fun x u => { u with swdIdcode := firstBitLow 32 x.1, swdParity := x.2, swdOk := true })
    (writesResults_idcode hack _ _)
  exact ⟨_, _, hend, rfl, rfl⟩

theorem InStep.after_idcodeTxn (h : InStep env .swdio s t t') :
    ∃ c u u', InStep env .swdio s u u' ∧ idcodeTxn env t = finish c u ∧ idcodeTxn env t' = finish c u' := by
  have hreq := h.after_requestIdcode hb
  have hack : (requestIdcode env t').swdAck = (requestIdcode env t).swdAck := by
    obtain ⟨m, hm⟩ := hreq.same
    rw [hm]
  simp only [idcodeTxn, hack]
  split
  next hok =>
    obtain ⟨u, u', hread, hu, hu'⟩ := hreq.after_readIdcode hb hok
    exact ⟨.eNone, u, u', hread, hu, hu'⟩
  next =>
    have hwrite := (hreq.after_closeTransaction hb).written (fun u => { u with swdIdcode := 0#32, swdParity := false })
      ⟨rfl, fun _ => rfl, id⟩
    exact ⟨.eSwdAck, _, _, hwrite, rfl, rfl⟩

end Idcode
end Commands
end Sys2Proof.Machine

/-! ### What every command keeps -/

namespace Sys2Proof.Machine

/-- How far each command goes. -/
def scopeOf : Instr → Scope
  | .lrelease => .binding
  | .jbind => .binding
  | .sbind => .binding
  | .sidcode => .swdio
  | .sprobe => .swdio
  | _ => .levels

theorem scopeOf_eq_swdio (i : Instr) : scopeOf i = .swdio ↔ i = .sidcode ∨ i = .sprobe := by
  cases i <;> simp [scopeOf]

theorem scopeOf_eq_binding (i : Instr) : scopeOf i = .binding ↔ i = .lrelease ∨ i = .jbind ∨ i = .sbind := by
  cases i <;> simp [scopeOf]

theorem FinishesInStep.next {env : Oracle} {sc : Scope} {body : State → State} {s : State}
    (h : FinishesInStep env sc body s) (m : BitVec 16) : ∃ c u u', InStep env sc s u u' ∧
      (.next (body s) : Host.Outcome State Fault Refusal) = .next (finish c u) ∧
      (.next (body { s with tapShadow := m }) : Host.Outcome State Fault Refusal) = .next (finish c u') := by
  obtain ⟨c, u, u', hstep, hu, hu'⟩ := h m
  exact ⟨c, u, u', hstep, by rw [hu], by rw [hu']⟩

/-- What `SPROBE` writes before the IDCODE transaction (R159). -/
theorem InStep.probeLead {s : State} (hb : s.sbound = true) (env : Oracle) (m : BitVec 16) :
    InStep env .swdio s (idleCycles (lineReset (switchToSwd (wake (lineReset s)))))
      (idleCycles (lineReset (switchToSwd (wake (lineReset { s with tapShadow := m }))))) := by
  have hwake := ((InStep.start (env := env) (sc := .swdio) m).after_lineReset hb).after_wake hb
  exact ((hwake.after_switchToSwd hb).after_lineReset hb).after_idleCycles hb

/-- Every command runs in step with itself under another TAP shadow. -/
theorem exec_inStep (i : Instr) (s : State) (m : BitVec 16) : ∃ c u u', InStep s.env (scopeOf i) s u u' ∧
    exec i s = .next (finish c u) ∧ exec i { s with tapShadow := m } = .next (finish c u') := by
  cases i with
  | nop => exact ⟨.eNone, _, _, .start m, rfl, rfl⟩
  | lrelease => exact (lreleaseBody_inStep s.env s).next m
  | jbind => exact (jbindBody_inStep s.env s).next m
  | sbind => exact (sbindBody_inStep s.env s).next m
  | jclk =>
    exact (whenJBound_inStep fun hj m =>
      ⟨.eNone, _, _, (InStep.start m).pulsed hj, rfl, rfl⟩).next m
  | jtdi b =>
    exact (whenJBound_inStep fun hj m =>
      ⟨.eNone, _, _, (InStep.start m).driven .tdi b hj (by decide), rfl, rfl⟩).next m
  | jtms b =>
    exact (whenJBound_inStep fun hj m =>
      ⟨.eNone, _, _, (InStep.start m).driven .tms b hj (by decide), rfl, rfl⟩).next m
  | jrdb =>
    exact (whenJBound_inStep fun hj m =>
      ⟨.eNone, _, _, (InStep.start m).sampled .tdo hj, rfl, rfl⟩).next m
  | jidle =>
    exact (whenJBound_inStep fun hj m =>
      ⟨.eNone, _, _, (InStep.start m).after_tmsSeq hj _, rfl, rfl⟩).next m
  | jsdr =>
    exact (whenJBound_inStep fun hj m =>
      ⟨.eNone, _, _, (InStep.start m).after_tmsSeq hj _, rfl, rfl⟩).next m
  | jsir =>
    exact (whenJBound_inStep fun hj m =>
      ⟨.eNone, _, _, (InStep.start m).after_tmsSeq hj _, rfl, rfl⟩).next m
  | jshift n => exact (whenJBound_inStep fun hj => jshiftBody_inStep hj n).next m
  | jsend n => exact (whenJBound_inStep fun hj => jsendBody_inStep hj n).next m
  | jtrst b => exact (whenJBound_inStep fun hj => jtrstBody_inStep hj b).next m
  | jdetect => exact (whenJBound_inStep fun hj => jdetectBody_inStep hj).next m
  | jids n => exact (whenJBound_inStep fun hj => jidsBody_inStep hj n).next m
  | jbypass n => exact (whenJBound_inStep fun hj => jbypassBody_inStep hj n).next m
  | jidchk =>
    exact ⟨.eNone, _, _, (InStep.start m).written (fun u => { u with valid := plausibleId u.pat })
      ⟨rfl, fun _ => rfl, id⟩, rfl, rfl⟩
  | slrst =>
    exact (whenSBound_inStep (body := slrstBody) fun hb m =>
      ⟨.eNone, _, _, (InStep.start m).after_lineReset hb, rfl, rfl⟩).next m
  | swake =>
    exact (whenSBound_inStep (body := swakeBody) fun hb m =>
      ⟨.eNone, _, _, (InStep.start m).after_wake hb, rfl, rfl⟩).next m
  | sj2s =>
    exact (whenSBound_inStep (body := sj2sBody) fun hb m =>
      ⟨.eNone, _, _, (InStep.start m).after_switchToSwd hb, rfl, rfl⟩).next m
  | ss2j =>
    exact (whenSBound_inStep (body := ss2jBody) fun hb m =>
      ⟨.eNone, _, _, (InStep.start m).after_switchToJtag hb, rfl, rfl⟩).next m
  | sidcode => exact (whenSBound_inStep fun hb m => (InStep.start m).after_idcodeTxn hb).next m
  | sprobe =>
    exact (whenSBound_inStep (body := sprobeBody s.env) fun hb m =>
      (InStep.probeLead hb s.env m).after_idcodeTxn hb).next m

/-- The state a command answers, for one run alone. -/
theorem exec_next_inStep {i : Instr} {s t : State} (h : exec i s = .next t) :
    ∃ c u u', InStep s.env (scopeOf i) s u u' ∧ t = finish c u := by
  obtain ⟨c, u, u', hstep, hu, -⟩ := exec_inStep i s s.tapShadow
  rw [hu] at h
  injection h with ht
  exact ⟨c, u, u', hstep, ht.symm⟩

/-- Settles O27: the two runs do the same operations in step, and their states differ in the shadow alone. -/
theorem shadowIsInformational : Obligations.ShadowIsInformational := by
  unfold Obligations.ShadowIsInformational
  intro i s t m h
  obtain ⟨c, u, u', hstep, hu, hu'⟩ := exec_inStep i s m
  obtain ⟨k, rfl⟩ := hstep.same
  rw [hu] at h
  injection h with ht
  subst ht
  exact ⟨k, hu'⟩

/-- Settles O22: no operation of a command writes a register of the host's. -/
theorem commandsKeepHostRegisters : Obligations.CommandsKeepHostRegisters := by
  unfold Obligations.CommandsKeepHostRegisters
  intro i s t h
  obtain ⟨c, u, u', hstep, rfl⟩ := exec_next_inStep h
  have hk := hstep.host
  exact ⟨hk.cmd, hk.pat, hk.cand, hk.linecfg, hk.pinmapJtag, hk.pinmapAux, hk.params, hk.resets, hk.inputs,
    hk.replies⟩

/-! ### Lines of a good state (R36) -/

section Lines
variable {s : State}

theorem Inv_roleBound_owns (hs : s.Inv) {r : Role} (hr : s.roleBound r) : s.owns (s.role r) = true := by
  obtain ⟨-, -, -, hjtag, hswd⟩ := hs
  have jtag (hj : s.jbound = true) : ∀ l ∈ s.jtagLines, s.owns l = true :=
    ((jtagBindable_iff s).mp (hjtag hj).2.1).2
  have swd (hb : s.sbound = true) : ∀ l ∈ s.swdLines, s.owns l = true :=
    ((swdBindable_iff s).mp (hswd hb).2.1).2
  cases r with
  | trst => exact jtag hr.1 _ (by simp [State.jtagLines, hr.2])
  | swclk => exact swd hr _ (by simp [State.swdLines])
  | swdio => exact swd hr _ (by simp [State.swdLines])
  | _ => exact jtag hr _ (by simp [State.jtagLines])

theorem Inv_touches_owns (hs : s.Inv) {sc : Scope} {l : Nat} (h : sc.touches s l) : s.owns l = true := by
  rcases h with hcfg | ⟨r, hr, rfl⟩
  · cases sc with
    | levels => exact hcfg.elim
    | swdio =>
      obtain ⟨hb, rfl⟩ := hcfg
      exact Inv_roleBound_owns hs (r := .swdio) hb
    | binding => exact hcfg
  · exact Inv_roleBound_owns hs hr

end Lines

/-- Settles O23: a command touches the lines it configures and those of bound roles, and all of them are candidates. -/
theorem onlyCandidateLinesTouched : Obligations.OnlyCandidateLinesTouched := by
  unfold Obligations.OnlyCandidateLinesTouched
  intro i s t hs h
  obtain ⟨c, u, u', hstep, rfl⟩ := exec_next_inStep h
  obtain ⟨new, htrace, hnew⟩ := hstep.eventsTouch
  refine ⟨fun l hl => hstep.line_untouched fun ht => ?_, new, htrace, fun e he => Inv_touches_owns hs (hnew e he)⟩
  rw [Inv_touches_owns hs ht] at hl
  exact Bool.noConfusion hl

end Sys2Proof.Machine

/-! ### The invariant (R27 to R36, R40) -/

namespace Sys2Proof.Machine

section Bindings
variable {env : Oracle} {sc : Scope} {s t t' : State}

/-- In a good state no other bound role shares TCK's line. -/
theorem Inv_tck_alone (hs : s.Inv) (hj : s.jbound = true) (r : Role) (hr : s.roleBound r)
    (hck : r ≠ .tck ∧ r ≠ .swclk) : s.role r ≠ s.role .tck := by
  have hlive := Inv_jlive hs hj
  cases r with
  | tck => exact absurd rfl hck.1
  | tms => exact hlive.tck_tms.symm
  | tdi => exact hlive.tck_tdi.symm
  | tdo => exact hlive.tck_tdo.symm
  | trst => exact (hlive.trst_tck hr.2).symm
  | swclk => exact absurd rfl hck.2
  | swdio => exact Bool.noConfusion ((hs.2.2.2.1 hj).1.symm.trans hr)

/-- In a good state no other bound role shares SWCLK's line. -/
theorem Inv_swclk_alone (hs : s.Inv) (hb : s.sbound = true) (r : Role) (hr : s.roleBound r)
    (hck : r ≠ .tck ∧ r ≠ .swclk) : s.role r ≠ s.role .swclk := by
  have hunbound : ¬ s.jbound = true := by simp [(hs.2.2.2.2 hb).1]
  cases r with
  | swclk => exact absurd rfl hck.2
  | swdio => exact (Inv_slive hs hb).clk_dio.symm
  | trst => exact absurd hr.1 hunbound
  | _ => exact absurd hr hunbound

/-- Outside the binding commands a bound JTAG assignment stays configured. -/
theorem InStep.jtagReady (h : InStep env sc s t t') (hsc : sc ≠ .binding) (hs : s.Inv) (hj : s.jbound = true) :
    t.JtagReady := by
  obtain ⟨hunbound, hbind, htck, hlow, htms, htdi, htdo, htrst⟩ := hs.2.2.2.1 hj
  have hcfg (l : Nat) : ¬ sc.configures s l := by
    cases sc with
    | levels => exact id
    | swdio => exact fun hl => Bool.noConfusion (hunbound.symm.trans hl.1)
    | binding => exact absurd rfl hsc
  simp only [State.JtagReady, h.host.jtagBindable, h.host.role, h.host.trstEn, h.dir (hcfg _)]
  exact ⟨hbind, htck, h.clock_low (hcfg _) (Inv_tck_alone hs hj) hlow, htms, htdi, htdo, htrst⟩

/-- Outside the binding commands a bound SWD assignment stays configured, SWDIO's direction apart. -/
theorem InStep.swdReady (h : InStep env sc s t t') (hsc : sc ≠ .binding) (hs : s.Inv) (hb : s.sbound = true)
    (hdio : (t.line (s.role .swdio)).dir = .output) : t.SwdReady := by
  obtain ⟨-, hbind, hclk, hlow, -⟩ := hs.2.2.2.2 hb
  have hcfg : ¬ sc.configures s (s.role .swclk) := by
    cases sc with
    | levels => exact id
    | swdio => exact fun hl => (Inv_slive hs hb).clk_dio hl.2
    | binding => exact absurd rfl hsc
  simp only [State.SwdReady, h.host.swdBindable, h.host.role, h.dir hcfg]
  exact ⟨hbind, hclk, h.clock_low hcfg (Inv_swclk_alone hs hb) hlow, hdio⟩

/-- Outside the binding commands the bindings stay good when SWDIO ends as an output. -/
theorem InStep.bound (h : InStep env sc s t t') (hsc : sc ≠ .binding) (hs : s.Inv)
    (hdio : s.sbound = true → (t.line (s.role .swdio)).dir = .output) : t.Bound := by
  obtain ⟨hjb, hsb⟩ := h.flags hsc
  rw [State.Bound, hjb, hsb]
  exact ⟨fun hj => ⟨(hs.2.2.2.1 hj).1, h.jtagReady hsc hs hj⟩,
    fun hb => ⟨(hs.2.2.2.2 hb).1, h.swdReady hsc hs hb (hdio hb)⟩⟩

/-! ### SWDIO after an IDCODE transaction (R158) -/

theorem InStep.closeTransaction_dir (h : InStep env sc s t t') (hlt : s.role .swdio < s.lines.length) :
    ((closeTransaction t).line (s.role .swdio)).dir = .output := by
  have hrole : (swdTurn t).role .swdio = s.role .swdio := h.host.role .swdio
  have hlen : s.role .swdio < (swdTurn t).lines.length := by rwa [swdTurn_lines_length, h.lines_length]
  rw [closeTransaction, hrole, cfg_line _ _ _ _ _ hlen]
  simp

theorem readIdcode_line (env : Oracle) (s : State) (l : Nat) :
    (readIdcode env s).line l = (closeTransaction (swdRead env (swdReads env 32 s).2).2).line l := by
  simp only [readIdcode, State.line, finish_lines]

theorem abortIdcode_line (s : State) (l : Nat) : (abortIdcode s).line l = (closeTransaction s).line l := by
  simp only [abortIdcode, State.line, finish_lines]

theorem InStep.idcodeTxn_dir (h : InStep env .swdio s t t') (hb : s.sbound = true)
    (hlt : s.role .swdio < s.lines.length) : ((idcodeTxn env t).line (s.role .swdio)).dir = .output := by
  have hreq := h.after_requestIdcode hb
  simp only [idcodeTxn]
  split
  · rw [readIdcode_line]
    exact ((hreq.after_swdReads hb 32).2.after_swdRead hb).2.closeTransaction_dir hlt
  · rw [abortIdcode_line]
    exact hreq.closeTransaction_dir hlt

theorem exec_swdio_dir {i : Instr} (hs : s.Inv) (hb : s.sbound = true) (hi : scopeOf i = .swdio)
    (h : exec i s = .next t) : (t.line (s.role .swdio)).dir = .output := by
  have hlt := (Inv_slive hs hb).dio_lt
  rcases (scopeOf_eq_swdio i).mp hi with rfl | rfl
  · obtain rfl : idcodeTxn s.env s = t := by simpa [exec, execSidcode, whenSBound, hb, sidcodeBody] using h
    exact (InStep.start s.tapShadow).idcodeTxn_dir hb hlt
  · obtain rfl : sprobeBody s.env s = t := by simpa [exec, execSprobe, whenSBound, hb] using h
    rw [sprobeBody]
    exact (InStep.probeLead hb s.env s.tapShadow).idcodeTxn_dir hb hlt

/-! ### The lines after a bind (R92, R93) -/

theorem owns_lt (hs : s.Shaped) {l : Nat} (hl : s.owns l = true) : l < s.lines.length := by
  simp only [State.owns, Bool.and_eq_true, decide_eq_true_eq] at hl
  rw [hs.2.1]
  exact hl.1

theorem makeInputs_candLines_dir (hs : s.Shaped) {l : Nat} (hl : s.owns l = true) :
    ((makeInputs s.candLines s).line l).dir = .input := by
  rw [makeInputs_line _ _ _ fun k hk => owns_lt hs ((mem_candLines s k).mp hk), if_pos ((mem_candLines s l).mpr hl)]

theorem bindTrst_line (s : State) (hlt : s.trstEn = true → s.role .trst < s.lines.length) (l : Nat) :
    (bindTrst s).line l =
      if s.trstEn = true ∧ s.role .trst = l then ⟨.output, s.pull, true⟩ else s.line l := by
  unfold bindTrst
  split
  next hen => simp [cfg_line _ _ _ _ _ (hlt hen), hen]
  next hen => simp [hen]

/-- Line `l` after the line events of `JBIND` (R92), the last `Cfg` first. -/
theorem bindJtagLines_line (hs : s.Shaped) (hbind : s.jtagBindable = true) (l : Nat) : (bindJtagLines s).line l =
    if s.trstEn = true ∧ s.role .trst = l then ⟨.output, s.pull, true⟩
    else if s.role .tdi = l then ⟨.output, s.pull, false⟩
    else if s.role .tms = l then ⟨.output, s.pull, true⟩
    else if s.role .tck = l then ⟨.output, s.pull, false⟩
    else (makeInputs s.candLines s).line l := by
  obtain ⟨-, howns⟩ := (jtagBindable_iff s).mp hbind
  have hin := (InStep.inputs (fun _ _ => false) s s.tapShadow).host
  have hpull : (makeInputs s.candLines s).pull = s.pull := by simp [State.pull, hin.linecfg]
  have hlt {r : Role} (hr : s.role r ∈ s.jtagLines) : s.role r < (makeInputs s.candLines s).lines.length := by
    rw [makeInputs_length]
    exact owns_lt hs (howns _ hr)
  have htck := hlt (r := .tck) (by simp [State.jtagLines])
  have htms := hlt (r := .tms) (by simp [State.jtagLines])
  have htdi := hlt (r := .tdi) (by simp [State.jtagLines])
  have htrst (hen : s.trstEn = true) := hlt (r := .trst) (by simp [State.jtagLines, hen])
  simp only [bindJtagLines, cfg_role, hin.role]
  rw [bindTrst_line _ (by simpa [hin.role, hin.trstEn] using htrst), cfg_line _ _ _ _ _ (by simpa using htdi),
    cfg_line _ _ _ _ _ (by simpa using htms), cfg_line _ _ _ _ _ htck]
  simp [hin.role, hin.trstEn, hpull]

/-- The roles of R92 name distinct lines, TRST only where it is enabled. -/
theorem jtagLines_nodup_iff (s : State) : s.jtagLines.Nodup ↔
    [s.role .tck, s.role .tms, s.role .tdi, s.role .tdo].Nodup ∧
      (s.trstEn = true → s.role .trst ∉ [s.role .tck, s.role .tms, s.role .tdi, s.role .tdo]) := by
  unfold State.jtagLines
  split
  next hen => rw [List.nodup_append_comm, List.singleton_append, List.nodup_cons, and_comm]; simp [hen]
  next hen => simp [hen]

theorem bindJtagLines_ready (hs : s.Shaped) (hbind : s.jtagBindable = true) : (bindJtagLines s).JtagReady := by
  have hhost := (InStep.bindJtagLines (fun _ _ => false) s.tapShadow hbind).host
  obtain ⟨hnodup, howns⟩ := (jtagBindable_iff s).mp hbind
  have hin := makeInputs_candLines_dir hs (howns (s.role .tdo) (by simp [State.jtagLines]))
  obtain ⟨hbase, htrst⟩ := (jtagLines_nodup_iff s).mp hnodup
  simp only [List.nodup_cons, List.mem_cons, List.not_mem_nil, not_or] at hbase htrst
  have htck : s.role .tms ≠ s.role .tck ∧ s.role .tdi ≠ s.role .tck ∧
      ¬ (s.trstEn = true ∧ s.role .trst = s.role .tck) := by grind
  have htdo : s.role .tck ≠ s.role .tdo ∧ s.role .tms ≠ s.role .tdo ∧ s.role .tdi ≠ s.role .tdo ∧
      ¬ (s.trstEn = true ∧ s.role .trst = s.role .tdo) := by grind
  simp only [State.JtagReady, hhost.jtagBindable, hhost.role, hhost.trstEn, bindJtagLines_line hs hbind]
  simp +contextual [hbind, hin, htck, htdo, apply_ite Line.dir]

theorem bindSwdLines_ready (hs : s.Shaped) (hbind : s.swdBindable = true) : (bindSwdLines s).SwdReady := by
  have hhost := (InStep.bindSwdLines (fun _ _ => false) s.tapShadow hbind).host
  have hin := (InStep.inputs (fun _ _ => false) s s.tapShadow).host
  obtain ⟨hnodup, howns⟩ := (swdBindable_iff s).mp hbind
  have hclk : s.role .swclk < s.lines.length := owns_lt hs (howns _ (by simp [State.swdLines]))
  have hdio : s.role .swdio < s.lines.length := owns_lt hs (howns _ (by simp [State.swdLines]))
  have hne : s.role .swclk ≠ s.role .swdio := by simpa [State.swdLines] using hnodup
  have hline (l : Nat) : (bindSwdLines s).line l =
      (cfg (s.role .swdio) .output (some true)
        (cfg (s.role .swclk) .output (some false) (makeInputs s.candLines s))).line l := by
    simp only [bindSwdLines, cfg_role, hin.role]
  simp only [State.SwdReady, hhost.swdBindable, hhost.role, hline]
  rw [cfg_line_ne hne.symm, cfg_line _ _ _ _ _ (by simpa using hclk), cfg_line _ _ _ _ _ (by simpa using hdio)]
  simp [hbind]

/-- Readiness is not about the flags and the shadow that a bind writes (R92). -/
theorem jtagReady_bound (ht : t.JtagReady) (c : Code) (m : BitVec 16) :
    (finish c { t with jbound := true, sbound := false, tapShadow := m }).Bound :=
  ⟨fun _ => ⟨rfl, ht⟩, fun hb => Bool.noConfusion hb⟩

/-- The same for SWD (R93). -/
theorem swdReady_bound (ht : t.SwdReady) (c : Code) (m : BitVec 16) :
    (finish c { t with sbound := true, jbound := false, tapShadow := m }).Bound :=
  ⟨fun hj => Bool.noConfusion hj, fun _ => ⟨rfl, ht⟩⟩

/-- After a binding command the bindings are good (R91 to R93). -/
theorem binding_bound (hs : s.Inv) {i : Instr} (hi : scopeOf i = .binding) (h : exec i s = .next t) : t.Bound := by
  obtain ⟨hshape, -, -, hbound⟩ := hs
  rcases (scopeOf_eq_binding i).mp hi with rfl | rfl | rfl
  · obtain rfl : lreleaseBody s = t := by simpa [exec, execLrelease] using h
    simp [State.Bound, lreleaseBody]
  · obtain rfl : jbindBody s = t := by simpa [exec, execJbind] using h
    unfold jbindBody
    split
    next hbind => exact jtagReady_bound (bindJtagLines_ready hshape hbind) .eNone 0xFFFF#16
    next => exact hbound
  · obtain rfl : sbindBody s = t := by simpa [exec, execSbind] using h
    unfold sbindBody
    split
    next hbind => exact swdReady_bound (bindSwdLines_ready hshape hbind) .eNone 0xFFFF#16
    next => exact hbound

end Bindings

/-- Every command keeps the invariant and ends idle. -/
theorem exec_keeps_wf {i : Instr} {s t : State} (hs : s.Inv) (h : exec i s = .next t) : t.Wf := by
  have hbinding (hi : scopeOf i = .binding) : t.Bound := binding_bound hs hi h
  have hdio (hi : scopeOf i = .swdio) (hb : s.sbound = true) := exec_swdio_dir hs hb hi h
  have ⟨⟨hparams, hlines, hbuf⟩, hregs, ⟨hcnt, hack, hshadow⟩, hbound⟩ := hs
  obtain ⟨c, u, u', hstep, rfl⟩ := exec_next_inStep h
  obtain ⟨hbuf', hcnt', hack'⟩ := hstep.resultsInRange ⟨hbuf, hcnt, hack⟩
  have hbound' : u.Bound := by
    cases hsc : scopeOf i with
    | levels =>
      rw [hsc] at hstep
      exact hstep.bound (by simp) hs fun hb => (hstep.dir id).trans (hbound.2 hb).2.2.2.2
    | swdio =>
      rw [hsc] at hstep
      exact hstep.bound (by simp) hs fun hb => hdio hsc hb
    | binding => exact hbinding hsc
  have hshape : u.Shaped :=
    ⟨hstep.host.params ▸ hparams, by rw [hstep.lines_length, hstep.host.params, hlines], hbuf'⟩
  exact ⟨⟨hshape, hstep.host.regsLegal hregs, ⟨hcnt', hack', hstep.shadow_ne_zero hshadow⟩, hbound'⟩, rfl⟩

/-! ### Host accesses and reset -/

theorem legalCand_idem (p : Params) (v : Word) : legalCand p (legalCand p v) = legalCand p v := by
  simp [legalCand, BitVec.and_assoc]

theorem legalLinecfg_idem (v : Word) : legalLinecfg (legalLinecfg v) = legalLinecfg v := by
  unfold legalLinecfg
  split
  · rfl
  next hv => rw [BitVec.and_assoc, BitVec.and_self, if_neg hv]

theorem legalPinmapJtag_idem (v : Word) : legalPinmapJtag (legalPinmapJtag v) = legalPinmapJtag v := by
  simp [legalPinmapJtag, BitVec.and_assoc]

theorem legalPinmapAux_idem (v : Word) : legalPinmapAux (legalPinmapAux v) = legalPinmapAux v := by
  simp [legalPinmapAux, BitVec.and_assoc]

theorem regWrite_keeps_wf (idx : RegIndex) (v : Word) {s : State} (hs : s.Wf) : (regWrite idx v s).Wf := by
  have ⟨⟨hshape, ⟨hcand, hlinecfg, hjtag, haux⟩, hresults, hbound⟩, hidle⟩ := hs
  unfold regWrite
  split
  · exact hs
  · refine ⟨⟨hshape, ⟨legalCand_idem _ _, hlinecfg, hjtag, haux⟩, hresults, ?_⟩, hidle⟩
    simp [State.Bound]
  · exact ⟨⟨hshape, ⟨hcand, legalLinecfg_idem _, hjtag, haux⟩, hresults, hbound⟩, hidle⟩
  · refine ⟨⟨hshape, ⟨hcand, hlinecfg, legalPinmapJtag_idem _, haux⟩, hresults, ?_⟩, hidle⟩
    exact ⟨by simp, fun hb => ⟨rfl, (hbound.2 hb).2⟩⟩
  · refine ⟨⟨hshape, ⟨hcand, hlinecfg, hjtag, legalPinmapAux_idem _⟩, hresults, ?_⟩, hidle⟩
    simp [State.Bound]
  · exact hs

theorem resetWith_wf {p : Params} (hp : p.Wf) : (State.resetWith p).Wf := by
  refine ⟨⟨⟨hp, ?_, ?_⟩, ?_, ?_, ?_⟩, rfl⟩
  · simp [State.resetWith]
  · simp [State.resetWith]
  · simp [State.RegsLegal, legalCand, legalLinecfg, legalPinmapJtag, legalPinmapAux, State.resetWith]
  · exact ⟨Nat.zero_le _, fun h => Bool.noConfusion h, by simp [State.resetWith]⟩
  · simp [State.Bound, State.resetWith]

theorem Config_params_wf : Config.params.Wf := by
  have hextra := Config.extraLines.isLt
  simp only [Params.Wf, Config.params, Config.numLines]
  omega

/-- Settles O18, for whatever number of lines there is. -/
theorem resetWellFormed : Obligations.ResetWellFormed := resetWith_wf Config_params_wf

/-- The access a host makes, and the command it starts, keep the invariant. -/
theorem serveOp_keeps_wf {s : State} (hs : s.Wf) (op : HostOp) :
    ((serveOp op s).2 = none → (serveOp op s).1.Wf) ∧
      ∀ i, (serveOp op s).2 = some i → (serveOp op s).1.Inv := by
  cases op with
  | read idx => exact ⟨fun _ => hs, by simp [serveOp]⟩
  | reset => exact ⟨fun _ => resetWith_wf hs.1.1.1, by simp [serveOp]⟩
  | write idx v =>
    by_cases hidx : idx = 0x00#8
    · simp only [serveOp, hidx, if_true, writeCommand]
      cases decode v with
      | ok i => exact ⟨by simp, fun _ _ => hs.1⟩
      | error r => exact ⟨fun _ => ⟨hs.1, rfl⟩, by simp⟩
    · simp only [serveOp, if_neg hidx]
      exact ⟨fun _ => regWrite_keeps_wf idx v hs, by simp⟩

/-- Settles O19: a host access keeps the invariant, and so does the command it starts. -/
theorem stepKeepsWellFormed : Obligations.StepKeepsWellFormed := by
  unfold Obligations.StepKeepsWellFormed
  intro s t hs h
  cases hin : s.inputs with
  | nil =>
    obtain rfl : s = t := by simpa [step, serve, hin] using h
    exact hs
  | cons op rest =>
    have hrest : State.Wf { s with inputs := rest } := hs
    obtain ⟨hnone, hsome⟩ := serveOp_keeps_wf hrest op
    simp only [step, serve, hin] at h
    split at h
    next u hserve =>
      rw [hserve] at hnone
      injection h with ht
      exact ht ▸ hnone rfl
    next u i hserve =>
      rw [hserve] at hsome
      exact exec_keeps_wf (hsome i rfl) h

end Sys2Proof.Machine

/-! ### Register writes (R28 to R31) -/

namespace Sys2Proof.Machine

/-- R52: a host write to an index other than `CMD` is the register write and nothing more. -/
theorem step_regWrite {s : State} {idx : RegIndex} {v : Word} {rest : List HostOp}
    (hin : s.inputs = .write idx v :: rest) (hidx : idx ≠ 0x00#8) :
    step s = .next (regWrite idx v { s with inputs := rest }) := by
  simp [step, serve, hin, serveOp, hidx]

theorem legalCand_getLsbD (p : Params) (v : Word) (l : Nat) :
    (legalCand p v).getLsbD l = (decide (l < p.numLines) && v.getLsbD l) := by
  by_cases hl : l < 32
  · rw [legalCand, candMask, BitVec.getLsbD_and, BitVec.getLsbD_ofNat, Nat.testBit_two_pow_sub_one, Bool.and_comm]
    simp [hl]
  · rw [BitVec.getLsbD_of_ge _ _ (Nat.le_of_not_lt hl), BitVec.getLsbD_of_ge v _ (Nat.le_of_not_lt hl), Bool.and_false]

/-- Settles O12: the mask of `CAND` is the existing lines, bit by bit. -/
theorem candWrite : Obligations.CandWrite := by
  unfold Obligations.CandWrite
  intro s v rest _ hin
  exact ⟨legalCand s.params v, step_regWrite hin (by decide), legalCand_getLsbD s.params v⟩

theorem and_three_toNat (v : Word) : (v &&& 3#32).toNat = v.toNat % 4 := by
  rw [BitVec.toNat_and]
  exact Nat.and_two_pow_sub_one_eq_mod v.toNat 2

theorem legalLinecfg_toNat (v : Word) : (legalLinecfg v).toNat = if v.toNat % 4 = 3 then 0 else v.toNat % 4 := by
  have heq : v &&& 3#32 = 3#32 ↔ v.toNat % 4 = 3 := by
    rw [← BitVec.toNat_inj, and_three_toNat]
    rfl
  simp only [legalLinecfg, heq, apply_ite BitVec.toNat, and_three_toNat]
  rfl

/-- Settles O13: the mask of `LINECFG` is a remainder. -/
theorem linecfgWrite : Obligations.LinecfgWrite := by
  unfold Obligations.LinecfgWrite
  intro s v rest hin
  exact ⟨legalLinecfg v, step_regWrite hin (by decide), legalLinecfg_toNat v⟩

/-- Bit `i` of a masked word, for a mask given bit by bit. -/
theorem and_mask_getLsbD {mask : Word} {p : Nat → Bool} (hmask : ∀ i : Fin 32, mask.getLsbD i = p i) (v : Word)
    (i : Nat) : (v &&& mask).getLsbD i = (p i && v.getLsbD i) := by
  rw [BitVec.getLsbD_and, Bool.and_comm]
  by_cases hi : i < 32
  · rw [hmask ⟨i, hi⟩]
  · rw [BitVec.getLsbD_of_ge v _ (Nat.le_of_not_lt hi), Bool.and_false, Bool.and_false]

/-- A line field that a mask keeps is the field of the word written. -/
theorem lineField_and_mask (v : Word) {mask : Word} {lo : Nat} (hmask : mask.extractLsb' lo 5 = BitVec.allOnes 5) :
    lineField (v &&& mask) lo = v.toNat / 2 ^ lo % 32 := by
  have hfield : (v &&& mask).extractLsb' lo 5 = v.extractLsb' lo 5 := by
    rw [BitVec.extractLsb'_and, hmask, BitVec.and_allOnes]
  rw [lineField, hfield, BitVec.extractLsb'_toNat, Nat.shiftRight_eq_div_pow]

/-- Settles O14: the mask keeps the four fields whole and nothing else. -/
theorem pinmapJtagWrite : Obligations.PinmapJtagWrite := by
  unfold Obligations.PinmapJtagWrite
  intro s v rest hin
  refine ⟨{ s with inputs := rest, pinmapJtag := legalPinmapJtag v, jbound := false },
    step_regWrite hin (by decide), rfl, and_mask_getLsbD (by decide) v, ?_, ?_, ?_, ?_⟩
  · exact (lineField_and_mask v (lo := 0) (by decide)).trans (by rw [pow_zero, Nat.div_one])
  · exact lineField_and_mask v (by decide)
  · exact lineField_and_mask v (by decide)
  · exact lineField_and_mask v (by decide)

/-- Settles O15: the mask keeps the three fields and `TRST_EN` whole and nothing else. -/
theorem pinmapAuxWrite : Obligations.PinmapAuxWrite := by
  unfold Obligations.PinmapAuxWrite
  intro s v rest hin
  have hbits := and_mask_getLsbD (mask := pinmapAuxMask)
    (p := fun i => decide (i < 5 ∨ i = 7 ∨ (8 ≤ i ∧ i < 13) ∨ (16 ≤ i ∧ i < 21))) (by decide) v
  refine ⟨{ s with inputs := rest, pinmapAux := legalPinmapAux v, jbound := false, sbound := false },
    step_regWrite hin (by decide), rfl, hbits, ?_, ?_, ?_, ?_⟩
  · exact (lineField_and_mask v (lo := 0) (by decide)).trans (by rw [pow_zero, Nat.div_one])
  · exact (hbits 7).trans (Bool.true_and _)
  · exact lineField_and_mask v (by decide)
  · exact lineField_and_mask v (by decide)

/-! ### `STATUS` and the reset values (R24, R46) -/

/-- R24, bit by bit. -/
theorem statusWord_getLsbD (s : State) (i : Nat) : s.statusWord.getLsbD i =
    if i < 4 then s.err.bits.getLsbD i
    else if i < 5 then s.valid
    else if i < 6 then s.echoMatch
    else if i < 7 then s.swdOk
    else if i < 8 then s.swdParity
    else if i < 11 then s.swdAck.getLsbD (i - 8)
    else if i < 12 then s.sbit
    else if i < 13 then s.jbound
    else if i < 14 then s.sbound
    else if i < 16 then false
    else s.tapShadow.getLsbD (i - 16) := by
  refine BitVec.getLsbD_append.trans ?_
  simp only [BitVec.getLsbD_append, BitVec.getLsbD_ofBool]
  by_cases hi : i < 16
  · interval_cases i <;> simp
  · grind

theorem extractLsb'_eq_of_getLsbD {n w : Nat} {v : BitVec n} {lo : Nat} {x : BitVec w}
    (h : ∀ i, i < w → v.getLsbD (lo + i) = x.getLsbD i) : v.extractLsb' lo w = x := by
  apply BitVec.eq_of_getLsbD_eq
  intro i hi
  simp [h i hi, hi]

/-- Settles O10, field by field from `statusWord_getLsbD`. -/
theorem statusLayout : Obligations.StatusLayout := by
  unfold Obligations.StatusLayout
  intro s
  have herr : s.statusWord.extractLsb' 0 4 = s.err.bits :=
    extractLsb'_eq_of_getLsbD fun i hi => by simp [statusWord_getLsbD, hi]
  have hack : s.statusWord.extractLsb' 8 3 = s.swdAck :=
    extractLsb'_eq_of_getLsbD fun i hi => by grind [statusWord_getLsbD]
  have hshadow : s.statusWord.extractLsb' 16 16 = s.tapShadow :=
    extractLsb'_eq_of_getLsbD fun i hi => by grind [statusWord_getLsbD]
  refine ⟨(congrArg BitVec.toNat herr).trans (by cases s.err <;> rfl), ?_⟩
  simp [statusWord_getLsbD, hack, hshadow, -BitVec.getLsbD_eq_getElem]

/-- Settles O16: the record of R46, and files made of copies of one value. -/
theorem resetValues : Obligations.ResetValues := by
  unfold Obligations.ResetValues
  simp [State.reset, State.resetWith, State.trstEn, Line.atReset, List.mem_replicate]

/-! ### The TAP shadow (R41, R42) -/

/-- Settles O41: `shadowNext` collects the one-element sets of the images. -/
theorem shadowNextIsImage : Obligations.ShadowNextIsImage := shadowNext_getLsbD

theorem shadowNext_tapBit (t : Bool) (q : TapState) : shadowNext t (tapBit q) = tapBit (q.next t) := by
  refine shadow_ext fun p => ?_
  rw [Bool.eq_iff_iff, shadowNext_getLsbD]
  simp [tapBit_getLsbD]

/-- The `n`-fold update is the image under `n` transitions. -/
theorem shadowNext_iterate_getLsbD (t : Bool) (m : BitVec 16) (q : TapState) : ∀ n : Nat,
    ((shadowNext t)^[n] m).getLsbD q.number = true ↔
      ∃ p : TapState, m.getLsbD p.number = true ∧ (fun r : TapState => r.next t)^[n] p = q := by
  intro n
  induction n generalizing q with
  | zero => simp
  | succ n ih =>
    rw [Function.iterate_succ_apply', shadowNext_getLsbD]
    simp only [ih, Function.iterate_succ_apply']
    grind

/-- R102: from every TAP state five clocks with TMS high reach Test-Logic-Reset. -/
theorem five_ones_reach_reset (p : TapState) : (fun r : TapState => r.next true)^[5] p = .testLogicReset := by
  cases p <;> rfl

/-- Settles O42: five transitions send every member to Test-Logic-Reset, and there is a member. -/
theorem fiveOnesReachReset : Obligations.FiveOnesReachReset := by
  unfold Obligations.FiveOnesReachReset
  intro m hm
  obtain ⟨p, hp⟩ := shadow_ne_zero.mp hm
  refine ⟨shadow_ext fun q => ?_, shadowNext_tapBit false .testLogicReset, shadowNext_tapBit false .runTestIdle⟩
  rw [Bool.eq_iff_iff, tapBit_getLsbD, decide_eq_true_iff]
  refine (shadowNext_iterate_getLsbD true m q 5).trans ?_
  simp only [five_ones_reach_reset]
  exact ⟨fun ⟨_, _, hq⟩ => hq, fun hq => ⟨p, hp, hq⟩⟩

end Sys2Proof.Machine

/-! ### Register reads and ignored writes (R51, R52) -/

namespace Sys2Proof.Machine

/-- R51: the accesses still to come are not in the register space. -/
theorem regRead_inputs (idx : RegIndex) (s : State) (ops : List HostOp) :
    regRead idx { s with inputs := ops } = regRead idx s := rfl

/-- R52: a host read is the reply and nothing more. -/
theorem step_regRead {s : State} {idx : RegIndex} {rest : List HostOp} (hin : s.inputs = .read idx :: rest) :
    step s = .next { s with inputs := rest, replies := regRead idx s :: s.replies } := by
  simp [step, serve, hin, serveOp, regRead_inputs]

/-- R51: above `SWD_IDCODE` only the words of `IDBUF` stand in the register space. -/
theorem regRead_of_ge {idx : RegIndex} (s : State) (h : 0x0A ≤ idx.toNat) :
    regRead idx s =
      if 0x80 ≤ idx.toNat ∧ idx.toNat < 0x80 + s.params.maxDevices then s.idbuf.getD (idx.toNat - 0x80) 0#32
      else 0#32 := by
  unfold regRead
  split
  case h_11 => rfl
  all_goals omega

/-- R51: word `k` of `IDBUF`. -/
theorem regRead_idbuf {idx : RegIndex} {s : State} {k : Nat} (hk : k < s.params.maxDevices)
    (hidx : idx.toNat = 0x80 + k) : regRead idx s = s.idbuf.getD k 0#32 := by
  rw [regRead_of_ge s (by omega), if_pos (by omega), hidx, Nat.add_sub_cancel_left]

/-- R51: the indexes between `SWD_IDCODE` and `IDBUF`, and those after the last word of `IDBUF`, read 0. -/
theorem regRead_reserved {idx : RegIndex} {s : State}
    (h : 0x0A ≤ idx.toNat ∧ idx.toNat ≤ 0x7F ∨ 0x80 + s.params.maxDevices ≤ idx.toNat) : regRead idx s = 0#32 := by
  rw [regRead_of_ge s (by omega), if_neg (by omega)]

/-- Settles O9: the named registers are the rows of `regRead`, the rest is `IDBUF` or reserved. -/
theorem regReadReturnsRegister : Obligations.RegReadReturnsRegister := by
  unfold Obligations.RegReadReturnsRegister
  intro s idx rest hin
  refine ⟨regRead idx s, step_regRead hin, ?_, ?_, ?_, ?_, ?_, ?_, ?_, ?_, ?_, ?_,
    fun h => regRead_reserved (.inl h), fun _ => regRead_idbuf, fun h => regRead_reserved (.inr h)⟩
  all_goals
    rintro rfl
    rfl

/-- R52: a write to a read-only or reserved index is ignored. -/
theorem regWrite_ignored {idx : RegIndex}
    (h : idx = 0x01#8 ∨ idx = 0x03#8 ∨ idx = 0x04#8 ∨ 0x09 ≤ idx.toNat) (v : Word) (s : State) :
    regWrite idx v s = s := by
  obtain rfl | rfl | rfl | h := h
  · rfl
  · rfl
  · rfl
  · unfold regWrite
    split
    case h_6 => rfl
    all_goals omega

/-- Settles O11: neither index is `CMD`, so the step is the register write. -/
theorem patAndIgnoredWrites : Obligations.PatAndIgnoredWrites := by
  unfold Obligations.PatAndIgnoredWrites
  intro s idx v rest hin
  constructor
  · rintro rfl
    exact step_regWrite hin (by decide)
  · intro hidx
    have hcmd : idx ≠ 0x00#8 := by
      rintro rfl
      simp at hidx
    rw [step_regWrite hin hcmd, regWrite_ignored hidx]

end Sys2Proof.Machine

/-! ### The command encoding (R70 to R75)

The decoder is characterised once, by `decode_eq_ok_iff`: a word decodes to `i` exactly when its four fields are those
of `encode i`. Both round trips and the rows of R74 are read off it. -/

namespace Sys2Proof

open Machine

/-! #### Shapes -/

/-- The shape of a command's opcode row (R73, R74). -/
def Instr.shape : Instr → Shape
  | .jtdi _ => .withB .jtdi
  | .jtms _ => .withB .jtms
  | .jtrst _ => .withB .jtrst
  | .jshift _ => .withN .jshift
  | .jsend _ => .withN .jsend
  | .jids _ => .withN .jids
  | .jbypass _ => .withN .jbypass
  | i => .plain i

/-- The command of a shape with the operand fields of a word (R72). -/
def Shape.command : Shape → Bool → Nat → Instr
  | .plain i, _, _ => i
  | .withB f, b, _ => f b
  | .withN f, _, n => f n

theorem opcodeShape_opcode (i : Instr) : opcodeShape i.opcode = some i.shape := by cases i <;> rfl

/-- R75: the opcodes in none of R74's rows. -/
theorem opcodeShape_eq_none_iff (opc : BitVec 8) : opcodeShape opc = none ↔
    (4 ≤ opc.toNat ∧ opc.toNat ≤ 0x0F) ∨ (0x1A ≤ opc.toNat ∧ opc.toNat ≤ 0x1F) ∨
      (0x24 ≤ opc.toNat ∧ opc.toNat ≤ 0x2F) ∨ 0x36 ≤ opc.toNat := by
  unfold opcodeShape
  split
  case h_25 =>
    refine iff_of_true rfl ?_
    simp only [imp_false] at *
    omega
  all_goals
    refine iff_of_false (Option.some_ne_none _) ?_
    omega

/-- A row's shape makes commands with the row's opcode only (R74). -/
theorem opcode_of_opcodeShape {opc : BitVec 8} {shape : Shape} (h : opcodeShape opc = some shape) (b : Bool) (n : Nat) :
    (shape.command b n).opcode = opc := by
  unfold opcodeShape at h
  split at h
  case h_25 => cases h
  all_goals
    next hopc =>
      cases h
      exact (BitVec.eq_of_toNat_eq hopc).symm

theorem exists_opcode_iff (opc : BitVec 8) : (∃ i : Instr, i.opcode = opc) ↔ opcodeShape opc ≠ none := by
  constructor
  · rintro ⟨i, rfl⟩
    simp [opcodeShape_opcode]
  · intro h
    obtain ⟨shape, hshape⟩ := Option.ne_none_iff_exists'.mp h
    exact ⟨shape.command false 0, opcode_of_opcodeShape hshape false 0⟩

theorem shape_eq_of_opcode_eq {i j : Instr} (h : i.opcode = j.opcode) : i.shape = j.shape :=
  Option.some.inj (by rw [← opcodeShape_opcode, h, opcodeShape_opcode])

@[simp] theorem command_shape (i : Instr) : i.shape.command i.fieldB i.fieldN = i := by cases i <;> rfl

@[simp] theorem opcode_command (i : Instr) (b : Bool) (n : Nat) : (i.shape.command b n).opcode = i.opcode :=
  opcode_of_opcodeShape (opcodeShape_opcode i) b n

@[simp] theorem fieldB_command (i : Instr) (b : Bool) (n : Nat) : (i.shape.command b n).fieldB = (i.usesB && b) := by
  cases i <;> rfl

@[simp] theorem fieldN_command (i : Instr) (b : Bool) (n : Nat) :
    (i.shape.command b n).fieldN = if i.usesN then n else 0 := by
  cases i <;> rfl

/-- R73: which operand fields a command uses is a matter of its opcode. -/
theorem uses_eq_of_opcode_eq {i j : Instr} (h : i.opcode = j.opcode) : i.usesB = j.usesB ∧ i.usesN = j.usesN := by
  have hcommand : i.shape.command true 1 = j.shape.command true 1 := by rw [shape_eq_of_opcode_eq h]
  have hB := congrArg Instr.fieldB hcommand
  have hN := congrArg Instr.fieldN hcommand
  simp only [fieldB_command, fieldN_command, Bool.and_true] at hB hN
  exact ⟨hB, by grind⟩

/-- R73: a field that a command does not use is 0. -/
theorem fieldB_of_usesB {i : Instr} (h : i.usesB = false) : i.fieldB = false := by
  rw [← command_shape i, fieldB_command, h, Bool.false_and]

theorem fieldN_of_usesN {i : Instr} (h : i.usesN = false) : i.fieldN = 0 := by
  rw [← command_shape i, fieldN_command, h, if_neg Bool.false_ne_true]

/-- R72: well-formed means that the count fits its field. -/
theorem wf_iff (i : Instr) : i.wf = true ↔ i.fieldN < 65536 := by
  cases i <;> simp [Instr.wf, Instr.fieldN, countFits]

/-! #### The decoder -/

theorem decode_of_opcodeShape_none {w : Word} (h : opcodeShape (wordOpc w) = none) :
    decode w = .error .undefinedOpcode := by
  simp only [decode, h]

/-- R71: the checks on a word whose opcode is that of a command. -/
theorem decode_of_opcode {w : Word} {i : Instr} (h : i.opcode = wordOpc w) :
    decode w =
      if wordRsv w ≠ 0#7 then .error .reservedNonzero
      else if i.usesB = false ∧ wordB w = true then .error .unusedB
      else if i.usesN = false ∧ wordN w ≠ 0 then .error .unusedN
      else .ok (i.shape.command (wordB w) (wordN w)) := by
  simp only [decode, ← h, opcodeShape_opcode]
  cases i <;> simp [Instr.shape, Instr.usesB, Instr.usesN, Shape.command]

theorem wordN_lt (w : Word) : wordN w < 65536 := (w.extractLsb' 16 16).isLt

/-- R71: a word decodes to a command exactly when its fields are the command's opcode and operands and `RSV` is 0. -/
theorem decode_eq_ok_iff (w : Word) (i : Instr) : decode w = .ok i ↔
    wordOpc w = i.opcode ∧ wordB w = i.fieldB ∧ wordRsv w = 0#7 ∧ wordN w = i.fieldN := by
  constructor
  · intro h
    obtain ⟨j, hj⟩ : ∃ j : Instr, j.opcode = wordOpc w := by
      refine (exists_opcode_iff _).mpr fun hnone => ?_
      cases (decode_of_opcodeShape_none hnone).symm.trans h
    rw [decode_of_opcode hj] at h
    split_ifs at h with hrsv hB hN
    cases h
    rw [opcode_command, fieldB_command, fieldN_command]
    exact ⟨hj.symm, by grind, not_not.mp hrsv, by grind⟩
  · rintro ⟨hopc, hB, hrsv, hN⟩
    have hunusedB : ¬(i.usesB = false ∧ wordB w = true) := fun ⟨hunused, hset⟩ => by
      rw [hB, fieldB_of_usesB hunused] at hset
      exact Bool.false_ne_true hset
    have hunusedN : ¬(i.usesN = false ∧ wordN w ≠ 0) := fun ⟨hunused, hset⟩ =>
      hset (hN.trans (fieldN_of_usesN hunused))
    rw [decode_of_opcode hopc.symm, if_neg (not_not.mpr hrsv), if_neg hunusedB, if_neg hunusedN, hB, hN, command_shape]

theorem word_eq_iff (w v : Word) : w = v ↔
    wordOpc w = wordOpc v ∧ wordB w = wordB v ∧ wordRsv w = wordRsv v ∧ wordN w = wordN v := by
  refine ⟨?_, fun ⟨hopc, hB, hrsv, hN⟩ => word_ext w v hopc hB hrsv hN⟩
  rintro rfl
  exact ⟨rfl, rfl, rfl, rfl⟩

/-- Settles O1: the fields of `encode i` are those that `decode_eq_ok_iff` asks for. -/
theorem decodeOfEncode : Obligations.DecodeOfEncode := by
  unfold Obligations.DecodeOfEncode
  intro i hwf
  exact (decode_eq_ok_iff _ _).mpr ⟨commandWord_opc _ _ _, commandWord_b _ _ _, commandWord_rsv _ _ _,
    commandWord_n _ _ _ ((wf_iff i).mp hwf)⟩

/-- Settles O2: `w` and `encode i` agree in all four fields. -/
theorem encodeOfDecode : Obligations.EncodeOfDecode := by
  unfold Obligations.EncodeOfDecode
  intro w i h
  obtain ⟨hopc, hB, hrsv, hN⟩ := (decode_eq_ok_iff w i).mp h
  have hfits : i.fieldN < 65536 := hN ▸ wordN_lt w
  refine ⟨(wf_iff i).mpr hfits, word_ext _ _ ?_ ?_ ?_ ?_⟩
  · exact (commandWord_opc _ _ _).trans hopc.symm
  · exact (commandWord_b _ _ _).trans hB.symm
  · exact (commandWord_rsv _ _ _).trans hrsv.symm
  · exact (commandWord_n _ _ _ hfits).trans hN.symm

/-! #### The rows of R74 -/

/-- The mask of R74 for the operand fields a command uses. -/
def operandMask (usesB usesN : Bool) : Word := if usesB then maskB else if usesN then maskN else maskPlain

/-- The row of a command in R74's table. -/
def Instr.row (i : Instr) : OpcodeRow where
  mnemonic := i.mnemonic
  pat := commandWord i.opcode false 0
  mask := operandMask i.usesB i.usesN

/-- R74: the table is the rows of the 24 commands. -/
theorem mem_opcodeTable_iff (r : OpcodeRow) : r ∈ opcodeTable ↔ ∃ i : Instr, i.row = r := by
  constructor
  · have hrows : opcodeTable = List.map Instr.row [.nop, .lrelease, .jbind, .sbind, .jclk, .jtdi false, .jtms false,
      .jrdb, .jidle, .jsdr, .jsir, .jshift 0, .jsend 0, .jtrst false, .jdetect, .jids 0, .jbypass 0, .jidchk, .slrst,
      .swake, .sj2s, .ss2j, .sidcode, .sprobe] := by decide
    rw [hrows]
    intro hr
    obtain ⟨i, -, hi⟩ := List.mem_map.mp hr
    exact ⟨i, hi⟩
  · rintro ⟨i, rfl⟩
    cases i <;>
      simp [opcodeTable, Instr.row, Instr.mnemonic, Instr.opcode, commandWord, operandMask, Instr.usesB, Instr.usesN]

/-- A row's mnemonic names the row. -/
theorem opcodeTable_mnemonic_inj {r q : OpcodeRow} (hr : r ∈ opcodeTable) (hq : q ∈ opcodeTable)
    (h : r.mnemonic = q.mnemonic) : r = q :=
  List.inj_on_of_nodup_map (f := OpcodeRow.mnemonic) (by decide) hr hq h

/-- Commands with one mnemonic have one opcode (R74). -/
theorem opcode_eq_of_mnemonic_eq {i j : Instr} (h : i.mnemonic = j.mnemonic) : i.opcode = j.opcode := by
  have hrow : i.row = j.row :=
    opcodeTable_mnemonic_inj ((mem_opcodeTable_iff _).mpr ⟨i, rfl⟩) ((mem_opcodeTable_iff _).mpr ⟨j, rfl⟩) h
  have hopc := congrArg (fun r : OpcodeRow => wordOpc r.pat) hrow
  simpa only [Instr.row, commandWord_opc] using hopc

theorem wordOpc_and (w v : Word) : wordOpc (w &&& v) = wordOpc w &&& wordOpc v := BitVec.extractLsb'_and

theorem wordB_and (w v : Word) : wordB (w &&& v) = (wordB w && wordB v) := BitVec.getLsbD_and

theorem wordRsv_and (w v : Word) : wordRsv (w &&& v) = wordRsv w &&& wordRsv v := BitVec.extractLsb'_and

theorem wordN_and (w v : Word) : wordN (w &&& v) = wordN w &&& wordN v := by
  rw [wordN, BitVec.extractLsb'_and, BitVec.toNat_and]
  rfl

/-- R73: no command uses both operand fields. -/
theorem usesB_and_usesN (i : Instr) : (i.usesB && i.usesN) = false := by cases i <;> rfl

/-- R70, R74: a mask keeps `OPC` and `RSV` whole, and of `B` and `N` what the command does not use. -/
theorem operandMask_fields : ∀ usesB usesN : Bool, (usesB && usesN) = false →
    wordOpc (operandMask usesB usesN) = BitVec.allOnes 8 ∧ wordB (operandMask usesB usesN) = !usesB ∧
      wordRsv (operandMask usesB usesN) = BitVec.allOnes 7 ∧
        wordN (operandMask usesB usesN) = if usesN then 0 else 65535 := by
  decide

/-- R74: the words that a command's row selects, by their fields. -/
theorem row_selects_iff (w : Word) (i : Instr) : w &&& i.row.mask = i.row.pat ↔
    wordOpc w = i.opcode ∧ (i.usesB = false → wordB w = false) ∧ wordRsv w = 0#7 ∧
      (i.usesN = false → wordN w = 0) := by
  obtain ⟨hopc, hB, hrsv, hN⟩ := operandMask_fields i.usesB i.usesN (usesB_and_usesN i)
  have hlow : wordN w &&& 65535 = wordN w := Nat.and_two_pow_sub_one_of_lt_two_pow (n := 16) (wordN_lt w)
  rw [Instr.row, word_eq_iff, wordOpc_and, wordB_and, wordRsv_and, wordN_and, hopc, hB, hrsv, hN, BitVec.and_allOnes,
    BitVec.and_allOnes, commandWord_opc, commandWord_b, commandWord_rsv, commandWord_n _ _ 0 (by decide)]
  cases i.usesB <;> cases i.usesN <;> simp [hlow]

theorem mnemonic_command (i : Instr) (b : Bool) (n : Nat) : (i.shape.command b n).mnemonic = i.mnemonic := by
  cases i <;> rfl

/-- Settles O3: a row selects the words whose fields the decoder takes for a command of the row's opcode. -/
theorem opcodeRowSelects : Obligations.OpcodeRowSelects := by
  unfold Obligations.OpcodeRowSelects
  refine ⟨rfl, fun r hr w => ?_⟩
  obtain ⟨i, rfl⟩ := (mem_opcodeTable_iff r).mp hr
  rw [row_selects_iff]
  constructor
  · rintro ⟨hopc, hB, hrsv, hN⟩
    refine ⟨i.shape.command (wordB w) (wordN w), (decode_eq_ok_iff _ _).mpr ?_, mnemonic_command _ _ _⟩
    rw [opcode_command, fieldB_command, fieldN_command]
    exact ⟨hopc, by grind, hrsv, by grind⟩
  · rintro ⟨j, hj, hmnemonic⟩
    obtain ⟨hopc, hB, hrsv, hN⟩ := (decode_eq_ok_iff w j).mp hj
    have heq : j.opcode = i.opcode := opcode_eq_of_mnemonic_eq hmnemonic
    obtain ⟨husesB, husesN⟩ := uses_eq_of_opcode_eq heq
    exact ⟨hopc.trans heq, fun h => hB.trans (fieldB_of_usesB (husesB.trans h)), hrsv,
      fun h => hN.trans (fieldN_of_usesN (husesN.trans h))⟩

/-! #### Illegal words (R75) -/

/-- A stray operand field, for any one of the commands of the word's opcode. -/
theorem exists_stray_field_iff {w : Word} {i : Instr} (hi : i.opcode = wordOpc w) :
    (∃ j : Instr, j.opcode = wordOpc w ∧ ((j.usesB = false ∧ wordB w = true) ∨ (j.usesN = false ∧ wordN w ≠ 0))) ↔
      (i.usesB = false ∧ wordB w = true) ∨ (i.usesN = false ∧ wordN w ≠ 0) := by
  refine ⟨fun ⟨j, hj, hstray⟩ => ?_, fun hstray => ⟨i, hi, hstray⟩⟩
  obtain ⟨hB, hN⟩ := uses_eq_of_opcode_eq (hi.trans hj.symm)
  rwa [hB, hN]

theorem decode_error_iff (w : Word) : (∃ r, decode w = .error r) ↔
    opcodeShape (wordOpc w) = none ∨ wordRsv w ≠ 0#7 ∨ ∃ i : Instr, i.opcode = wordOpc w ∧
      ((i.usesB = false ∧ wordB w = true) ∨ (i.usesN = false ∧ wordN w ≠ 0)) := by
  by_cases hopc : opcodeShape (wordOpc w) = none
  · exact iff_of_true ⟨_, decode_of_opcodeShape_none hopc⟩ (.inl hopc)
  · obtain ⟨i, hi⟩ := (exists_opcode_iff _).mpr hopc
    rw [exists_stray_field_iff hi, decode_of_opcode hi]
    split_ifs <;> simp_all

/-- R71, R182: writing a word that does not decode. -/
theorem step_write_illegal {s : State} {w : Word} {rest : List HostOp} {r : Reject}
    (hin : s.inputs = .write 0x00#8 w :: rest) (h : decode w = .error r) :
    step s = .next { s with inputs := rest, cmd := w, err := .eIllegal, activity := .idle } := by
  simp [step, serve, hin, serveOp, writeCommand, h, storeCommand, finish]

/-- Settles O4: the checks of R71 in R75's words, and the step of an illegal write. -/
theorem illegalWords : Obligations.IllegalWords := by
  unfold Obligations.IllegalWords
  intro w
  rw [← opcodeShape_eq_none_iff]
  exact ⟨decode_error_iff w, fun ⟨r, hr⟩ s rest hin => step_write_illegal hin hr⟩

/-- Settles O5, field by field. -/
theorem sampleWordsDecode : Obligations.SampleWordsDecode := by
  unfold Obligations.SampleWordsDecode
  simp only [decode_eq_ok_iff]
  decide

/-! ### Host statements and command writes (R71, R78, R79) -/

/-- R78: the read-modify-write of a field, bit by bit. -/
theorem insertField_getLsbD (old : Word) (f : Field) (v : Nat) {k : Nat} (hk : k < 32) :
    (insertField old f v).getLsbD k =
      if f.lo ≤ k ∧ k < f.lo + f.width then v.testBit (k - f.lo) else old.getLsbD k := by
  have hmask : ((2 ^ f.width - 1) * 2 ^ f.lo).testBit k = decide (f.lo ≤ k ∧ k < f.lo + f.width) := by
    rw [Nat.testBit_mul_two_pow, Nat.testBit_two_pow_sub_one]
    grind
  have hvalue : (v % 2 ^ f.width * 2 ^ f.lo).testBit k =
      (decide (f.lo ≤ k ∧ k < f.lo + f.width) && v.testBit (k - f.lo)) := by
    rw [Nat.testBit_mul_two_pow, Nat.testBit_mod_two_pow]
    grind
  simp only [insertField, BitVec.getLsbD_or, BitVec.getLsbD_and, BitVec.getLsbD_not, BitVec.getLsbD_ofNat, hk, hmask,
    hvalue, decide_true, Bool.true_and]
  by_cases hfield : f.lo ≤ k ∧ k < f.lo + f.width <;> simp [hfield]

/-- Settles O7: the word written is `insertField` of the register as read. -/
theorem fieldWriteIsReadModifyWrite : Obligations.FieldWriteIsReadModifyWrite := by
  unfold Obligations.FieldWriteIsReadModifyWrite
  intro s r name f v _ _
  exact ⟨insertField (regRead r.index s) f v, rfl, fun k hk => insertField_getLsbD _ f v hk⟩

/-- Settles O6, one pseudo-instruction at a time. -/
theorem pseudoInstructionsExpand : Obligations.PseudoInstructionsExpand := by
  unfold Obligations.PseudoInstructionsExpand
  intro s b v
  refine ⟨?_, ?_, ?_, ?_, ?_, ?_⟩
  · rfl
  · rfl
  · cases b <;> rfl
  · rfl
  · rfl
  · rfl

/-- R71: a host write to `CMD` of a word that decodes runs the command. -/
theorem step_write_command {s : State} {w : Word} {i : Instr} {rest : List HostOp}
    (hin : s.inputs = .write 0x00#8 w :: rest) (h : decode w = .ok i) :
    step s = exec i { s with inputs := rest, cmd := w, activity := .executing } := by
  simp [step, serve, hin, serveOp, writeCommand, h, storeCommand]

theorem withFetchWord_inputs (s : State) (w : Word) :
    (s.withFetchWord 32 w.toNat).inputs = .write 0x00#8 w :: s.inputs := by
  rw [State.withFetchWord, Nat.mod_eq_of_lt w.isLt, BitVec.ofNat_toNat, BitVec.setWidth_eq]

/-- Settles O8: `withFetchWord` is a queue that begins with such a write. -/
theorem stepRunsDecodedCommand : Obligations.StepRunsDecodedCommand := by
  unfold Obligations.StepRunsDecodedCommand
  exact ⟨fun _ _ _ _ => step_write_command, fun s w _ => step_write_command (withFetchWord_inputs s w)⟩

end Sys2Proof

/-! ### The line control commands (R90 to R93) -/

namespace Sys2Proof.Machine

/-! #### Line sequences: what they append, and what they leave alone -/

/-- From `s` to `t` only the lines and the trace have changed. -/
def LinesOnly (s t : State) : Prop := t = { s with lines := t.lines, hist := t.hist }

section LinesOnly
variable {s t u : State}

theorem LinesOnly.trans (h : LinesOnly s t) (k : LinesOnly t u) : LinesOnly s u :=
  calc u
    _ = { t with lines := u.lines, hist := u.hist } := k
    _ = { s with lines := u.lines, hist := u.hist } := by rw [h]

theorem LinesOnly.after_cfg (h : LinesOnly s t) (l : Nat) (d : Dir) (v : Option Bool) : LinesOnly s (cfg l d v t) :=
  h.trans rfl

theorem makeInputs_linesOnly (ls : List Nat) (s : State) : LinesOnly s (makeInputs ls s) := by
  unfold LinesOnly
  rw [makeInputs_frame]

theorem LinesOnly.after_bindTrst (h : LinesOnly s t) : LinesOnly s (bindTrst t) := by
  unfold bindTrst
  split
  · exact h.after_cfg _ _ _
  · exact h

theorem bindJtagLines_linesOnly (s : State) : LinesOnly s (bindJtagLines s) :=
  ((((makeInputs_linesOnly s.candLines s).after_cfg _ _ _).after_cfg _ _ _).after_cfg _ _ _).after_bindTrst

theorem bindSwdLines_linesOnly (s : State) : LinesOnly s (bindSwdLines s) :=
  ((makeInputs_linesOnly s.candLines s).after_cfg _ _ _).after_cfg _ _ _

end LinesOnly

@[simp] theorem makeInputs_role (ls : List Nat) (s : State) (r : Role) : (makeInputs ls s).role r = s.role r := by
  rw [makeInputs_linesOnly ls s]
  rfl

@[simp] theorem makeInputs_trstEn (ls : List Nat) (s : State) : (makeInputs ls s).trstEn = s.trstEn := by
  rw [makeInputs_linesOnly ls s]
  rfl

@[simp] theorem makeInputs_pull (ls : List Nat) (s : State) : (makeInputs ls s).pull = s.pull := by
  rw [makeInputs_linesOnly ls s]
  rfl

theorem cfg_trace (l : Nat) (d : Dir) (v : Option Bool) (s : State) :
    (cfg l d v s).trace = s.trace ++ [Event.cfg l d v] := by
  simp [State.trace]

theorem makeInputs_trace (ls : List Nat) (s : State) :
    (makeInputs ls s).trace = s.trace ++ ls.map (fun l => Event.cfg l .input none) := by
  rw [makeInputs_frame]
  simp [State.trace]

theorem bindTrst_trace (s : State) : (bindTrst s).trace =
    s.trace ++ if s.trstEn then [Event.cfg (s.role .trst) .output (some true)] else [] := by
  unfold bindTrst
  split
  · exact cfg_trace _ _ _ s
  · exact (List.append_nil _).symm

/-- The events of a successful `JBIND` (R92). -/
theorem bindJtagLines_trace (s : State) : (bindJtagLines s).trace =
    s.trace ++ s.candLines.map (fun l => Event.cfg l .input none) ++
      [Event.cfg (s.role .tck) .output (some false), Event.cfg (s.role .tms) .output (some true),
        Event.cfg (s.role .tdi) .output (some false)] ++
      (if s.trstEn then [Event.cfg (s.role .trst) .output (some true)] else []) := by
  simp [bindJtagLines, bindTrst_trace, cfg_trace, makeInputs_trace]

/-- The events of a successful `SBIND` (R93). -/
theorem bindSwdLines_trace (s : State) : (bindSwdLines s).trace =
    s.trace ++ s.candLines.map (fun l => Event.cfg l .input none) ++
      [Event.cfg (s.role .swclk) .output (some false), Event.cfg (s.role .swdio) .output (some true)] := by
  simp [bindSwdLines, cfg_trace, makeInputs_trace]

/-! #### The lines after them -/

section Lines
variable {s : State}

theorem owns_iff (s : State) (l : Nat) : s.owns l = true ↔ l < s.params.numLines ∧ s.cand.getLsbD l = true := by
  simp [State.owns]

/-- R91: the candidate lines as the loop names them. -/
theorem Shaped_candLines (hs : s.Shaped) :
    s.candLines = (List.range s.params.numLines).filter (fun l => s.cand.getLsbD l) := by
  obtain ⟨⟨-, hle, -⟩, -⟩ := hs
  exact candLines_eq s hle

/-- R91: the loop reaches every candidate line and no other. -/
theorem makeInputs_candLines_line (hs : s.Shaped) (l : Nat) : (makeInputs s.candLines s).line l =
    if s.owns l then ⟨.input, s.pull, (s.line l).out⟩ else s.line l := by
  rw [makeInputs_line _ _ _ fun k hk => owns_lt hs ((mem_candLines s k).mp hk)]
  simp only [mem_candLines]

/-- R92: the line events name distinct lines, so their order does not matter. -/
theorem bindJtagLines_line_of_nodup (hs : s.Shaped) (hbind : s.jtagBindable = true) (l : Nat) :
    (bindJtagLines s).line l =
      if l = s.role .tck then ⟨.output, s.pull, false⟩
      else if l = s.role .tms then ⟨.output, s.pull, true⟩
      else if l = s.role .tdi then ⟨.output, s.pull, false⟩
      else if s.trstEn = true ∧ l = s.role .trst then ⟨.output, s.pull, true⟩
      else if s.owns l then ⟨.input, s.pull, (s.line l).out⟩
      else s.line l := by
  obtain ⟨hnodup, -⟩ := (jtagBindable_iff s).mp hbind
  obtain ⟨hbase, htrst⟩ := (jtagLines_nodup_iff s).mp hnodup
  simp only [List.nodup_cons, List.mem_cons, List.not_mem_nil, not_or] at hbase htrst
  rw [bindJtagLines_line hs hbind, makeInputs_candLines_line hs]
  grind

/-- Line `l` after the line events of `SBIND` (R93). -/
theorem bindSwdLines_line (hs : s.Shaped) (hbind : s.swdBindable = true) (l : Nat) : (bindSwdLines s).line l =
    if l = s.role .swclk then ⟨.output, s.pull, false⟩
    else if l = s.role .swdio then ⟨.output, s.pull, true⟩
    else if s.owns l then ⟨.input, s.pull, (s.line l).out⟩
    else s.line l := by
  obtain ⟨hnodup, howns⟩ := (swdBindable_iff s).mp hbind
  have hclk : s.role .swclk < s.lines.length := owns_lt hs (howns _ (by simp [State.swdLines]))
  have hdio : s.role .swdio < s.lines.length := owns_lt hs (howns _ (by simp [State.swdLines]))
  have hne : s.role .swclk ≠ s.role .swdio := by simpa [State.swdLines] using hnodup
  simp only [bindSwdLines, cfg_role, makeInputs_role]
  rw [cfg_line _ _ _ _ _ (by simpa using hdio), cfg_line _ _ _ _ _ (by simpa using hclk),
    makeInputs_candLines_line hs]
  simp only [cfg_pull, makeInputs_pull, Option.getD_some]
  grind

end Lines

/-! #### The commands -/

/-- The end of R92 and R93: the bound flags, every state possible, no error. -/
def concludeBind (jtag swd : Bool) (s : State) : State :=
  finish .eNone { s with jbound := jtag, sbound := swd, tapShadow := 0xFFFF#16 }

theorem concludeBind_trace (j b : Bool) (s : State) : (concludeBind j b s).trace = s.trace := rfl

theorem concludeBind_line (j b : Bool) (s : State) (l : Nat) : (concludeBind j b s).line l = s.line l := rfl

theorem LinesOnly.concludeBind_eq {s t : State} (h : LinesOnly s t) (j b : Bool) : concludeBind j b t =
    { s with
      lines := (concludeBind j b t).lines, hist := (concludeBind j b t).hist, jbound := j, sbound := b
      tapShadow := 0xFFFF#16, err := .eNone, activity := .idle } := by
  rw [h]
  rfl

theorem exec_jbind (s : State) : exec .jbind s =
    .next (if s.jtagBindable then concludeBind true false (bindJtagLines s) else finish .eBind s) := rfl

theorem exec_sbind (s : State) : exec .sbind s =
    .next (if s.swdBindable then concludeBind false true (bindSwdLines s) else finish .eBind s) := rfl

/-- R92's check with the candidate test written out. -/
theorem jtagBindable_iff_candidates (s : State) : s.jtagBindable = true ↔
    s.jtagLines.Nodup ∧ ∀ l ∈ s.jtagLines, l < s.params.numLines ∧ s.cand.getLsbD l = true := by
  simp only [jtagBindable_iff, owns_iff]

/-- R93's check with the candidate test written out. -/
theorem swdBindable_iff_candidates (s : State) : s.swdBindable = true ↔
    s.role .swclk ≠ s.role .swdio ∧ ∀ l ∈ s.swdLines, l < s.params.numLines ∧ s.cand.getLsbD l = true := by
  have hnodup : s.swdLines.Nodup ↔ s.role .swclk ≠ s.role .swdio := by simp [State.swdLines]
  simp only [swdBindable_iff, owns_iff, hnodup]

/-- R74: `NOP` alone has opcode 0. -/
theorem eq_nop_of_opcode {i : Instr} (h : i.opcode = 0x00#8) : i = .nop := by
  have hshape : i.shape = Instr.nop.shape := shape_eq_of_opcode_eq h
  rw [← command_shape i, hshape]
  rfl

/-- Settles O28: a word of opcode 0 that decodes is `encode .nop`. -/
theorem nopOnlyClearsErr : Obligations.NopOnlyClearsErr := by
  unfold Obligations.NopOnlyClearsErr
  refine ⟨fun w hopc => ?_, fun s => rfl⟩
  split
  next hw => exact (decode_eq_ok_iff w .nop).mpr (by subst hw; decide)
  next hw =>
    cases hdec : decode w with
    | error r => exact ⟨r, rfl⟩
    | ok i =>
      obtain ⟨hi, -⟩ := (decode_eq_ok_iff w i).mp hdec
      obtain ⟨-, henc⟩ := encodeOfDecode w i hdec
      rw [eq_nop_of_opcode (hi.symm.trans hopc)] at henc
      exact absurd henc.symm hw

/-- Settles O29: the loop over the candidate lines, then the flags. -/
theorem lreleaseReleases : Obligations.LreleaseReleases := by
  unfold Obligations.LreleaseReleases
  refine ⟨(decode_eq_ok_iff _ _).mpr (by decide), fun s hs => ⟨lreleaseBody s, rfl, ?_, ?_, ?_⟩⟩
  · rw [← Shaped_candLines hs]
    exact makeInputs_trace s.candLines s
  · exact makeInputs_candLines_line hs
  · unfold lreleaseBody
    rw [makeInputs_linesOnly s.candLines s]
    rfl

/-- Settles O30: R92's check decides between the line events and `E_BIND`. -/
theorem jbindBinds : Obligations.JbindBinds := by
  unfold Obligations.JbindBinds
  refine ⟨(decode_eq_ok_iff _ _).mpr (by decide), fun s hs hnodup hcand => ?_, fun s hillegal => ?_⟩
  · have hbind := (jtagBindable_iff_candidates s).mpr ⟨hnodup, hcand⟩
    refine ⟨concludeBind true false (bindJtagLines s), by rw [exec_jbind, if_pos hbind], ?_, fun l => ?_,
      (bindJtagLines_linesOnly s).concludeBind_eq true false⟩
    · rw [concludeBind_trace, bindJtagLines_trace, Shaped_candLines hs]
    · rw [concludeBind_line, bindJtagLines_line_of_nodup hs hbind]
  · rw [exec_jbind, if_neg (mt (jtagBindable_iff_candidates s).mp hillegal), finish]

/-- Settles O31: R93's check decides between the line events and `E_BIND`. -/
theorem sbindBinds : Obligations.SbindBinds := by
  unfold Obligations.SbindBinds
  refine ⟨(decode_eq_ok_iff _ _).mpr (by decide), fun s hs hne hcand => ?_, fun s hillegal => ?_⟩
  · have hbind := (swdBindable_iff_candidates s).mpr ⟨hne, hcand⟩
    refine ⟨concludeBind false true (bindSwdLines s), by rw [exec_sbind, if_pos hbind], ?_, fun l => ?_,
      (bindSwdLines_linesOnly s).concludeBind_eq false true⟩
    · rw [concludeBind_trace, bindSwdLines_trace, Shaped_candLines hs]
    · rw [concludeBind_line, bindSwdLines_line hs hbind]
  · rw [exec_sbind, if_neg (mt (swdBindable_iff_candidates s).mp hillegal), finish]

end Sys2Proof.Machine

/-! ### The JTAG bit engine (R100 to R118) -/

namespace Sys2Proof

/-! #### The words of the commands with one operand (R70, R73) -/

/-- R73: a command that uses no count is its opcode and its level. -/
theorem decode_levelWord {i : Instr} (hN : i.fieldN = 0) :
    decode (i.opcode.setWidth 32 ||| (BitVec.ofBool i.fieldB).setWidth 32 <<< 8) = .ok i := by
  have hword : i.opcode.setWidth 32 ||| (BitVec.ofBool i.fieldB).setWidth 32 <<< 8 = encode i := by
    simp [encode, commandWord, hN, BitVec.or_comm]
  rw [hword]
  exact decodeOfEncode i ((wf_iff i).mpr (by omega))

/-- R72, R73: a command that uses no level is its opcode and its count. -/
theorem decode_countWord {i : Instr} (hB : i.fieldB = false) (hN : i.fieldN < 65536) :
    decode (i.opcode.setWidth 32 ||| BitVec.ofNat 32 i.fieldN <<< 16) = .ok i := by
  have hword : i.opcode.setWidth 32 ||| BitVec.ofNat 32 i.fieldN <<< 16 = encode i := by
    simp [encode, commandWord, hB, BitVec.or_comm]
  rw [hword]
  exact decodeOfEncode i ((wf_iff i).mpr hN)

end Sys2Proof

namespace Sys2Proof.Machine

/-! #### The binding check (R116, R183) -/

section Binding
variable {s : State} {body : State → State}

theorem whenJBound_bound (hj : s.jbound = true) : whenJBound body s = body s := if_pos hj

theorem whenJBound_unbound (hj : s.jbound = false) : whenJBound body s = finish .eUnbound s :=
  if_neg (by simp [hj])

/-- R183: each JTAG command makes the check before anything else. -/
theorem exec_needsJtag {i : Instr} (hi : needsJtag i = true) (s : State) :
    ∃ body, exec i s = .next (whenJBound body s) := by
  cases i <;> simp only [needsJtag, reduceCtorEq] at hi <;> exact ⟨_, rfl⟩

theorem exec_jtag_unbound {i : Instr} (hi : needsJtag i = true) (hj : s.jbound = false) :
    exec i s = .next { s with err := .eUnbound, activity := .idle } := by
  obtain ⟨body, hbody⟩ := exec_needsJtag hi s
  rw [hbody, whenJBound_unbound hj, finish]

end Binding

/-! #### What each command runs when JTAG is bound -/

section Bound
variable {s : State} (hj : s.jbound = true)
include hj

theorem exec_jclk : exec .jclk s = .next (jclkBody s.env s) :=
  congrArg Host.Outcome.next (whenJBound_bound hj)

theorem exec_jtdi (b : Bool) : exec (.jtdi b) s = .next (jtdiBody b s) :=
  congrArg Host.Outcome.next (whenJBound_bound hj)

theorem exec_jtms (b : Bool) : exec (.jtms b) s = .next (jtmsBody b s) :=
  congrArg Host.Outcome.next (whenJBound_bound hj)

theorem exec_jrdb : exec .jrdb s = .next (jrdbBody s.env s) :=
  congrArg Host.Outcome.next (whenJBound_bound hj)

theorem exec_jidle : exec .jidle s = .next (jidleBody s.env s) :=
  congrArg Host.Outcome.next (whenJBound_bound hj)

theorem exec_jsdr : exec .jsdr s = .next (jsdrBody s.env s) :=
  congrArg Host.Outcome.next (whenJBound_bound hj)

theorem exec_jsir : exec .jsir s = .next (jsirBody s.env s) :=
  congrArg Host.Outcome.next (whenJBound_bound hj)

theorem exec_jshift (n : Nat) : exec (.jshift n) s = .next (jshiftBody s.env n s) :=
  congrArg Host.Outcome.next (whenJBound_bound hj)

theorem exec_jsend (n : Nat) : exec (.jsend n) s = .next (jsendBody s.env n s) :=
  congrArg Host.Outcome.next (whenJBound_bound hj)

theorem exec_jtrst (b : Bool) : exec (.jtrst b) s = .next (jtrstBody b s) :=
  congrArg Host.Outcome.next (whenJBound_bound hj)

end Bound

/-! #### Single pulses, levels and samples (R106 to R109, R115) -/

/-- Settles O33: with TCK resting low a pulse ends with the line file it began with. -/
theorem jclkPulses : Obligations.JclkPulses := by
  unfold Obligations.JclkPulses
  refine ⟨(decode_eq_ok_iff _ _).mpr (by decide), fun s => exec_jtag_unbound rfl, fun s hs hj => ?_⟩
  refine ⟨(pulse s.env s).1, pulse_bit s.env s, ?_⟩
  rw [exec_jclk hj, jclkBody, pulse_state s.env (Inv_jlive hs hj), finish]

/-- Settles O34: one `Drive`, which does not look at the shadow. -/
theorem jtdiJtmsDrive : Obligations.JtdiJtmsDrive := by
  unfold Obligations.JtdiJtmsDrive
  have hneeds (b : Bool) : ∀ i ∈ [Instr.jtdi b, .jtms b], needsJtag i = true := by simp [needsJtag]
  exact ⟨fun b => ⟨decode_levelWord (i := .jtdi b) rfl, decode_levelWord (i := .jtms b) rfl⟩,
    fun s b hj i hi => exec_jtag_unbound (hneeds b i hi) hj, fun s b hj => ⟨exec_jtdi hj b, exec_jtms hj b⟩⟩

/-- Settles O35: one `Sample`. -/
theorem jrdbSamples : Obligations.JrdbSamples := by
  unfold Obligations.JrdbSamples
  exact ⟨(decode_eq_ok_iff _ _).mpr (by decide), fun s => exec_jtag_unbound rfl, fun s hj => ⟨_, rfl, exec_jrdb hj⟩⟩

/-- Settles O40: R183's two checks, then one `Drive`, and R43 when it is low. -/
theorem jtrstDrives : Obligations.JtrstDrives := by
  unfold Obligations.JtrstDrives
  refine ⟨fun b => decode_levelWord (i := .jtrst b) rfl, fun s b => ⟨fun hj hen => ?_, fun hmissing => ?_⟩⟩
  · rw [exec_jtrst hj, jtrstBody, if_pos hen]
    cases b <;> rfl
  · by_cases hj : s.jbound = true
    · have hen : ¬ s.trstEn = true := by simpa [hj] using hmissing
      rw [exec_jtrst hj, jtrstBody, if_neg hen, raiseError, finish]
    · exact exec_jtag_unbound (i := .jtrst b) rfl (by simpa using hj)

/-! #### TMS walks (R101 to R104, R110 to R112) -/

section Walks
variable {env : Oracle} {s t : State} {es shape : List Event} {ls : List Bool} {a d : Bool}

theorem JBlock_tapShadow (h : JBlock env s t es shape ls a d) : t.tapShadow = shadowAfter s ls := by rw [h.frame]

/-- R101: the whole effect of a command that is a walk, but for the events themselves. -/
theorem tmsSeq_finish (env : Oracle) (hs : JLive s) (ts : List Bool) :
    ∃ new, (finish .eNone (tmsSeq env ts s)).trace = s.trace ++ new ∧
      new.map Event.masked = walkShape s ts ∧ answered env s.hist new ∧
      finish .eNone (tmsSeq env ts s) = { s with
        lines := (s.withOut .tms (ts.getLastD (s.line (s.role .tms)).out)).lines
        hist := (finish .eNone (tmsSeq env ts s)).hist, sbit := (sampledBits new).getLastD s.sbit
        tapShadow := shadowAfter s ts, err := .eNone, activity := .idle } := by
  obtain ⟨new, h⟩ := tmsSeq_block env ts hs
  refine ⟨new, (JBlock_trace h :), h.masked, h.ans, ?_⟩
  rw [JBlock_finish h, setOut_tdi_keep hs]

/-- R102: five clocks with TMS high and two with TMS low, TRST held low or not (log 12). -/
theorem shadowAfter_idleLevels (hne : s.tapShadow ≠ 0#16) : shadowAfter s idleLevels = idleShadow s := by
  unfold idleShadow
  split
  next htrst => exact shadowAfter_asserted htrst _ (by decide)
  next htrst =>
    obtain ⟨hreset, hidle, hstay⟩ := fiveOnesReachReset s.tapShadow hne
    rw [shadowAfter_free (by simpa using htrst)]
    simp only [idleLevels, List.foldl_cons, List.foldl_nil, hreset, hidle, hstay]

end Walks

/-- Settles O36: the walk of `RestoreIdle`, whose end does not depend on the shadow it starts from. -/
theorem jidleRestoresIdle : Obligations.JidleRestoresIdle := by
  unfold Obligations.JidleRestoresIdle
  refine ⟨(decode_eq_ok_iff _ _).mpr (by decide), fun s hs hj => ?_⟩
  obtain ⟨new, htrace, hmasked, hans, hframe⟩ := tmsSeq_finish s.env (Inv_jlive hs hj) idleLevels
  obtain ⟨-, -, ⟨-, -, hne⟩, -⟩ := hs
  rw [shadowAfter_idleLevels hne] at hframe
  exact ⟨_, new, exec_jidle hj, htrace, hmasked, hans, hframe⟩

/-- Settles O37: two walks. -/
theorem jsdrJsirWalk : Obligations.JsdrJsirWalk := by
  unfold Obligations.JsdrJsirWalk
  have hneeds : ∀ i ∈ [Instr.jsdr, .jsir], needsJtag i = true := by simp [needsJtag]
  refine ⟨(decode_eq_ok_iff _ _).mpr (by decide), (decode_eq_ok_iff _ _).mpr (by decide),
    fun s hj i hi => exec_jtag_unbound (hneeds i hi) hj, fun s hs hj => ?_⟩
  have walk := tmsSeq_finish s.env (Inv_jlive hs hj)
  obtain ⟨newDr, hdr⟩ := walk [true, false, false]
  obtain ⟨newIr, hir⟩ := walk [true, true, false, false]
  exact ⟨⟨_, newDr, exec_jsdr hj, hdr⟩, ⟨_, newIr, exec_jsir hj, hir⟩⟩

/-! #### Shifts (R105, R113, R114, R117) -/

section Shifts
variable {env : Oracle} {s t : State} {es shape : List Event} {ls : List Bool} {a d : Bool} {n : Nat}

/-- A block and then `ShiftArray` of at least one bit. -/
theorem JBlock_shiftArray (env : Oracle) (p : Word) (hn : 1 ≤ n) (hs : JLive s)
    (h : JBlock env s t es shape ls a d) :
    ∃ fs, JBlock env s (shiftArray env p n t).2 (es ++ fs) (shape ++ shiftShape s (sentBits p n))
        (ls ++ (List.replicate (n - 1) a ++ [true])) true (p.getLsbD (n - 1)) ∧
      (sampledBits fs).length = n ∧ (shiftArray env p n t).1 = (sampledBits fs).foldl shiftIn 0#32 := by
  obtain ⟨fs, hfs, hacc⟩ := shiftArray_block env p n (JBlock_live hs h)
  have hpos : ¬ n = 0 := by omega
  simp only [hpos, if_false, JBlock_tms hs h, shiftShape_congr (JBlock_role h)] at hfs
  have hcount := hfs.count
  simp only [List.length_append, List.length_replicate, List.length_singleton] at hcount
  exact ⟨fs, JBlock_trans hs h hfs, by omega, hacc⟩

/-- A block, a write of `ACC` and then `Finish` (R15). -/
theorem JBlock_finish_acc (h : JBlock env s t es shape ls a d) (x : Word) : finish .eNone { t with acc := x } = { s with
    lines := setOut (s.role .tdi) d (setOut (s.role .tms) a s.lines)
    hist := es.reverse ++ s.hist
    sbit := (sampledBits es).getLastD s.sbit
    acc := x
    tapShadow := shadowAfter s ls
    err := .eNone, activity := .idle } :=
  congrArg (fun u => { u with acc := x }) (JBlock_finish h .eNone)

/-- R113: a count of 0 makes no pulse. -/
theorem exec_jshift_zero (hj : s.jbound = true) :
    exec (.jshift 0) s = .next { s with acc := 0#32, err := .eNone, activity := .idle } := exec_jshift hj 0

/-- `JSHIFT n` for `n` at least 1 (R113). -/
theorem exec_jshift_block (hs : JLive s) (hj : s.jbound = true) (hn : 1 ≤ n) :
    ∃ t es, exec (.jshift n) s = .next (finish .eNone { t with acc := (sampledBits es).foldl shiftIn 0#32 }) ∧
      (sampledBits es).length = n ∧
      JBlock s.env s t es (shiftShape s (sentBits s.pat n))
        (List.replicate (n - 1) (s.line (s.role .tms)).out ++ [true]) true (s.pat.getLsbD (n - 1)) := by
  obtain ⟨es, hes, hcount, hacc⟩ := JBlock_shiftArray s.env s.pat hn hs (JBlock_refl s.env s)
  refine ⟨_, es, ?_, hcount, hes⟩
  rw [exec_jshift hj, ← hacc]
  rfl

/-- `JSEND n` for `n` at least 1 (R114): the samples of the walk to Shift-DR, of the shift, of the walk to idle. -/
theorem exec_jsend_block (hs : JLive s) (hj : s.jbound = true) (hn : 1 ≤ n) :
    ∃ t enter shift leave,
      exec (.jsend n) s = .next (finish .eNone { t with acc := (sampledBits shift).foldl shiftIn 0#32 }) ∧
      (sampledBits enter).length = 3 ∧ (sampledBits shift).length = n ∧ (sampledBits leave).length = 2 ∧
      JBlock s.env s t (enter ++ shift ++ leave)
        (walkShape s [true, false, false] ++ shiftShape s (sentBits s.pat n) ++ walkShape s [true, false])
        ([true, false, false] ++ (List.replicate (n - 1) false ++ [true]) ++ [true, false]) false
        (s.pat.getLsbD (n - 1)) := by
  obtain ⟨enter, henter⟩ := tmsSeq_block s.env [true, false, false] hs
  obtain ⟨shift, hshift, hcount, hacc⟩ := JBlock_shiftArray s.env s.pat hn hs henter
  obtain ⟨leave, hleave, hlast⟩ := JBlock_tmsSeq s.env [true, false] hs hshift
  refine ⟨_, enter, shift, leave, ?_, henter.count, hcount, hlast, hleave⟩
  have hpat : (enterShiftDr s.env s).pat = s.pat := JBlock_pat henter
  rw [exec_jsend hj, jsendBody, if_neg (by omega)]
  simp only [hpat, updateToIdle, tmsSeq_acc, ← hacc]
  rfl

end Shifts

/-- Settles O38: no pulse at all, or a shift of at least one bit. -/
theorem jshiftShifts : Obligations.JshiftShifts := by
  unfold Obligations.JshiftShifts
  refine ⟨fun n => decode_countWord (i := .jshift n) rfl, fun s n => exec_jtag_unbound rfl, fun s n hs hj => ?_⟩
  rcases Nat.eq_zero_or_pos n with rfl | hn
  · exact ⟨_, [], exec_jshift_zero hj, by simp [State.trace], rfl, trivial, rfl, by simp, rfl⟩
  · obtain ⟨t, es, hexec, hcount, h⟩ := exec_jshift_block (Inv_jlive hs hj) hj hn
    refine ⟨_, es, hexec, (JBlock_trace h :), h.masked, h.ans, hcount, fun m hm => ?_, ?_⟩
    · rw [finish_acc, foldl_shiftIn_getLsbD _ m hm, hcount]
    · rw [JBlock_finish_acc h, if_neg (by omega), if_neg (by omega)]
      rfl

/-- Settles O39: the samples `ACC` keeps are those between the two walks. -/
theorem jsendSends : Obligations.JsendSends := by
  unfold Obligations.JsendSends
  refine ⟨fun n => decode_countWord (i := .jsend n) rfl, fun s n => exec_jtag_unbound rfl,
    fun s hj => exec_jsend hj 0, fun s n hs hj hn => ?_⟩
  obtain ⟨t, enter, shift, leave, hexec, henter, hshift, hleave, h⟩ := exec_jsend_block (Inv_jlive hs hj) hj hn
  refine ⟨_, enter ++ shift ++ leave, hexec, (JBlock_trace h :), h.masked, h.ans, ?_, fun m hm => ?_, ?_⟩
  · simp only [sampledBits_append, List.length_append]
    omega
  · rw [finish_acc, foldl_shiftIn_getLsbD _ m hm, hshift]
    split
    next hmn =>
      rw [sampledBits_append, sampledBits_append, List.getD_append _ _ _ _ (by rw [List.length_append]; omega),
        List.getD_append_right _ _ _ _ (by omega), henter, Nat.add_sub_cancel_left]
    next => rfl
  · rw [JBlock_finish_acc h]
    simp only [List.append_assoc]
    rfl

/-! #### Where the shadow ends (R118) -/

/-- R42: from a one-element shadow the walk of the TAP itself. -/
theorem shadowAfter_tapBit {s : State} (htrst : s.trstAsserted = false) {q : TapState} (hq : s.tapShadow = tapBit q)
    (levels : List Bool) : shadowAfter s levels = tapBit (levels.foldl TapState.next q) := by
  rw [shadowAfter_free htrst, hq]
  exact List.foldl_hom tapBit fun q t => shadowNext_tapBit t q

/-- R41: TMS low keeps the TAP in a state that TMS low does not leave. -/
theorem foldl_next_replicate_low {q : TapState} (hq : q.next false = q) (k : Nat) :
    (List.replicate k false).foldl TapState.next q = q := by
  induction k with
  | zero => rfl
  | succ k ih => rw [List.replicate_succ, List.foldl_cons, hq, ih]

section NetEffects
variable {s t : State} (hs : JLive s) (hj : s.jbound = true)
include hs

theorem tmsSeq_tapShadow (env : Oracle) (ts : List Bool) : (tmsSeq env ts s).tapShadow = shadowAfter s ts := by
  obtain ⟨_, h⟩ := tmsSeq_block env ts hs
  exact JBlock_tapShadow h

include hj

theorem exec_jsdr_tapShadow (h : exec .jsdr s = .next t) : t.tapShadow = shadowAfter s [true, false, false] := by
  cases (exec_jsdr hj).symm.trans h
  exact tmsSeq_tapShadow hs s.env _

theorem exec_jsir_tapShadow (h : exec .jsir s = .next t) :
    t.tapShadow = shadowAfter s [true, true, false, false] := by
  cases (exec_jsir hj).symm.trans h
  exact tmsSeq_tapShadow hs s.env _

theorem exec_jshift_tapShadow {n : Nat} (hn : 1 ≤ n) (h : exec (.jshift n) s = .next t) :
    t.tapShadow = shadowAfter s (List.replicate (n - 1) (s.line (s.role .tms)).out ++ [true]) := by
  obtain ⟨u, es, hexec, -, hblock⟩ := exec_jshift_block hs hj hn
  cases hexec.symm.trans h
  exact (JBlock_tapShadow hblock :)

theorem exec_jsend_tapShadow {n : Nat} (hn : 1 ≤ n) (h : exec (.jsend n) s = .next t) : t.tapShadow =
    shadowAfter s ([true, false, false] ++ (List.replicate (n - 1) false ++ [true]) ++ [true, false]) := by
  obtain ⟨u, enter, shift, leave, hexec, -, -, -, hblock⟩ := exec_jsend_block hs hj hn
  cases hexec.symm.trans h
  exact (JBlock_tapShadow hblock :)

end NetEffects

/-- Settles O43: the walk of each command, taken from the one state the shadow holds. -/
theorem netTapEffects : Obligations.NetTapEffects := by
  unfold Obligations.NetTapEffects
  intro s t n hs hj htrst hn
  have hlive := Inv_jlive hs hj
  have drLow := foldl_next_replicate_low (q := .shiftDr) rfl (n - 1)
  have irLow := foldl_next_replicate_low (q := .shiftIr) rfl (n - 1)
  refine ⟨fun hq h => ?_, fun hq h => ?_, fun hq htms h => ?_, fun hq htms h => ?_, fun hq h => ?_⟩
  · rw [exec_jsdr_tapShadow hlive hj h, shadowAfter_tapBit htrst hq]
    rfl
  · rw [exec_jsir_tapShadow hlive hj h, shadowAfter_tapBit htrst hq]
    rfl
  · rw [exec_jshift_tapShadow hlive hj hn h, htms, shadowAfter_tapBit htrst hq, List.foldl_append, drLow]
    rfl
  · rw [exec_jshift_tapShadow hlive hj hn h, htms, shadowAfter_tapBit htrst hq, List.foldl_append, irLow]
    rfl
  · rw [exec_jsend_tapShadow hlive hj hn h, shadowAfter_tapBit htrst hq]
    simp only [List.foldl_append, List.foldl_cons, List.foldl_nil, TapState.next, drLow]

/-! #### The loopback law (R117) -/

theorem sentBits_succ (p : Word) (n : Nat) : sentBits p (n + 1) = p.getLsbD 0 :: sentBits (p >>> 1) n := by
  simp [sentBits, List.range_succ_eq_map, Function.comp_def, Nat.add_comm]

theorem sentBits_length (p : Word) (n : Nat) : (sentBits p n).length = n := by simp [sentBits]

theorem sentBits_getD (p : Word) {n j : Nat} (hj : j < n) : (sentBits p n).getD j false = p.getLsbD j := by
  simp [sentBits, hj]

theorem pulse_role (env : Oracle) (s : State) (r : Role) : (pulse env s).2.role r = s.role r := rfl

theorem driveExit_role (last : Bool) (s : State) (r : Role) : (driveExit last s).role r = s.role r := by
  cases last <;> rfl

section Wire
variable {s : State} {tdi tdo : Nat}

/-- On a wire from TDI to TDO a pulse reads what was driven on TDI just before it. -/
theorem pulse_loopback (htdi : s.role .tdi = tdi) (htdo : s.role .tdo = tdo) (htck : s.role .tck ≠ tdi) (b : Bool) :
    (pulse (loopback tdi tdo) (drive .tdi b s)).1 = b := by
  simp [pulse_bit, loopback, lastDriven, htdi, htdo, htck]

/-- On the wire the loop of `ShiftArray` (R105) accumulates the bits it sends. -/
theorem shiftLoop_loopback (n : Nat) (q acc : Word) (htdi : s.role .tdi = tdi) (htdo : s.role .tdo = tdo)
    (htck : s.role .tck ≠ tdi) : (shiftLoop (loopback tdi tdo) n q acc s).1 = (sentBits q n).foldl shiftIn acc := by
  induction n generalizing q acc s with
  | zero => rfl
  | succ n ih =>
    have hrole := driveExit_role (n == 0) s
    rw [← hrole] at htdi htdo htck
    rw [shiftLoop, pulse_loopback htdi htdo htck, sentBits_succ, List.foldl_cons]
    refine ih (q >>> 1) _ ?_ ?_ ?_ <;> rw [pulse_role, drive_role] <;> assumption

end Wire

/-- Settles O44: `ACC` is the fold over the bits sent, whose bit `m` is that of `foldl_shiftIn_getLsbD`. -/
theorem loopbackShiftReturnsPattern : Obligations.LoopbackShiftReturnsPattern := by
  unfold Obligations.LoopbackShiftReturnsPattern
  intro s p n hs hj _
  have hbit (n m : Nat) (hm : m < 32) : (shiftArray (loopback (s.role .tdi) (s.role .tdo)) p n s).1.getLsbD m =
      if m < n then p.getLsbD (n - 1 - m) else false := by
    rw [shiftArray, shiftLoop_loopback n p 0#32 rfl rfl (Inv_jlive hs hj).tck_tdi, foldl_shiftIn_getLsbD _ m hm,
      sentBits_length]
    split
    next h => exact sentBits_getD p (by omega)
    next => rfl
  refine ⟨hbit n, BitVec.eq_of_getLsbD_eq fun i hi => ?_⟩
  rw [bitrev32_getLsbD _ i hi, hbit 32 _ (by omega), if_pos (by omega)]
  congr 1
  omega

end Sys2Proof.Machine

/-! ### The JTAG chain prober (R130 to R134) -/

namespace Sys2Proof.Machine

/-! #### What each command runs when JTAG is bound -/

section Bound
variable {s : State} (hj : s.jbound = true)
include hj

theorem exec_jdetect : exec .jdetect s = .next (jdetectBody s.env s) :=
  congrArg Host.Outcome.next (whenJBound_bound hj)

theorem exec_jids (n : Nat) : exec (.jids n) s = .next (jidsBody s.env n s) :=
  congrArg Host.Outcome.next (whenJBound_bound hj)

theorem exec_jbypass (n : Nat) : exec (.jbypass n) s = .next (jbypassBody s.env n s) :=
  congrArg Host.Outcome.next (whenJBound_bound hj)

end Bound

/-! #### The plausibility filter (R134) -/

theorem partIdentity_eq (id : Word) : partIdentity id = id.toNat / 2 % 128 := by
  simp [partIdentity, Nat.shiftRight_eq_div_pow]

theorem versionBank_eq (id : Word) : versionBank id = id.toNat / 256 % 16 := by
  simp [versionBank, Nat.shiftRight_eq_div_pow]

theorem plausibleId_eq (id : Word) :
    plausibleId id = (decide (2 ≤ id.toNat / 2 % 128) && decide (id.toNat / 256 % 16 ≤ 8)) := by
  rw [plausibleId, partIdentity_eq, versionBank_eq, ← Bool.decide_and]
  exact decide_eq_decide.mpr (by omega)

/-- Settles O51: the two windows of R134 as digits of `PAT`. -/
theorem jidchkFilters : Obligations.JidchkFilters := by
  unfold Obligations.JidchkFilters
  refine ⟨(decode_eq_ok_iff _ _).mpr (by decide), fun s => ?_⟩
  rw [← plausibleId_eq]
  rfl

/-! #### The closing `RestoreIdle` (R102) -/

section Closing
variable {env : Oracle} {s t : State} {es shape : List Event} {ls : List Bool} {a d : Bool}

theorem shadowAfter_append (s : State) (ls ms : List Bool) :
    shadowAfter s (ls ++ ms) = shadowAfter { s with tapShadow := shadowAfter s ls } ms := List.foldl_append

theorem shadowAfter_ne_zero (hne : s.tapShadow ≠ 0#16) (ls : List Bool) : shadowAfter s ls ≠ 0#16 := by
  induction ls using List.reverseRecOn with
  | nil => exact hne
  | append_singleton ls b ih =>
    rw [shadowAfter_append]
    exact pulseShadow_ne_zero { s with tapShadow := shadowAfter s ls } b ih

/-- R102: the walk to idle forgets every pulse before it. -/
theorem shadowAfter_append_idleLevels (hne : s.tapShadow ≠ 0#16) (ls : List Bool) :
    shadowAfter s (ls ++ idleLevels) = idleShadow s := by
  rw [shadowAfter_append]
  exact shadowAfter_idleLevels (shadowAfter_ne_zero hne ls)

/-- A block and then `RestoreIdle`. -/
theorem JBlock_restoreIdle (env : Oracle) (hs : JLive s) (h : JBlock env s t es shape ls a d) :
    ∃ fs, JBlock env s (restoreIdle env t) (es ++ fs) (shape ++ walkShape s idleLevels) (ls ++ idleLevels) false d ∧
      (sampledBits fs).length = 7 :=
  JBlock_tmsSeq env idleLevels hs h

/-- What a command that ends with `RestoreIdle` leaves, but for its result registers (R102; log 12). -/
theorem JBlock_finish_idle (hne : s.tapShadow ≠ 0#16) (h : JBlock env s t es shape (ls ++ idleLevels) false d) :
    finish .eNone t = { s with
      lines := ((s.withOut .tms false).withOut .tdi d).lines, hist := t.hist
      sbit := (sampledBits es).getLastD s.sbit, tapShadow := idleShadow s
      err := .eNone, activity := .idle } := by
  rw [JBlock_finish h, shadowAfter_append_idleLevels hne, JBlock_hist h]
  rfl

end Closing

/-! #### Into the data path: the all-ones fill of IR (R130, R131, R133) -/

section Fill
variable {env : Oracle} {s t : State} {es shape : List Event} {ls : List Bool} {a d : Bool}

theorem floodExitShape_congr (h : ∀ r, t.role r = s.role r) (n : Nat) : floodExitShape t n = floodExitShape s n := by
  simp [floodExitShape, pulsesShape_congr h, pulseShape_congr h, h]

/-- A block and then the fill that exits on its last bit. -/
theorem JBlock_flood (env : Oracle) {n : Nat} (hn : 1 ≤ n) (hs : JLive s) (h : JBlock env s t es shape ls a d) :
    ∃ fs ms, JBlock env s (flood env true n t) (es ++ fs) (shape ++ floodExitShape s n) (ls ++ ms) true d ∧
      (sampledBits fs).length = n := by
  obtain ⟨m, rfl⟩ : ∃ m, n = m + 1 := ⟨n - 1, by omega⟩
  obtain ⟨fs, hfs⟩ := flood_block env m (JBlock_live hs h)
  have hcount := hfs.count
  rw [JBlock_tdi hs h, floodExitShape_congr (JBlock_role h)] at hfs
  exact ⟨fs, _, JBlock_trans hs h hfs, by simpa using hcount⟩

/-- A block, then the way into every IR with TDI high. -/
theorem JBlock_enterShiftIr_high (env : Oracle) (hs : JLive s) (h : JBlock env s t es shape ls a d) :
    ∃ fs, JBlock env s (drive .tdi true (enterShiftIr env t)) (es ++ fs)
        (shape ++ (walkShape s [true, true, false, false] ++ [.drive (s.role .tdi) true]))
        (ls ++ [true, true, false, false]) false true ∧ (sampledBits fs).length = 4 := by
  obtain ⟨walk, hwalk, hcount⟩ := JBlock_tmsSeq env [true, true, false, false] hs h
  refine ⟨walk ++ [.drive (s.role .tdi) true], ?_, by simpa [sampledBits_append, sampledBits] using hcount⟩
  rw [← List.append_assoc, ← List.append_assoc]
  exact JBlock_drive_tdi env hs hwalk true

/-- A block, then the exiting fill, `Update-IR` and the way to Shift-DR: every device then shifts its BYPASS register. -/
theorem JBlock_fillToShiftDr (env : Oracle) {n : Nat} (hn : 1 ≤ n) (hs : JLive s) (h : JBlock env s t es shape ls a d) :
    ∃ fs ms, JBlock env s (enterShiftDr env (updateToIdle env (flood env true n t))) (es ++ fs)
        (shape ++ (floodExitShape s n ++ walkShape s [true, false] ++ walkShape s [true, false, false]))
        (ls ++ ms) false d ∧ (sampledBits fs).length = n + 5 := by
  obtain ⟨fill, levels, hfill, hfillLen⟩ := JBlock_flood env hn hs h
  obtain ⟨update, hupdate, hupdateLen⟩ := JBlock_tmsSeq env [true, false] hs hfill
  obtain ⟨enter, henter, henterLen⟩ := JBlock_tmsSeq env [true, false, false] hs hupdate
  refine ⟨fill ++ update ++ enter, levels ++ [true, false] ++ [true, false, false], ?_, ?_⟩
  · simp only [← List.append_assoc]
    exact henter
  · simp [sampledBits_append, hfillLen, hupdateLen, henterLen]

end Fill

/-! #### `JDETECT` (R130, R131) -/

section Detect
variable {env : Oracle} {s t : State} {es shape : List Event} {ls : List Bool} {a d : Bool}

/-- A block and then phase 1, in either mode. The samples before phase 3 are the 7 of `RestoreIdle`, these and the zero
fill. -/
theorem JBlock_detectFlood (env : Oracle) (hfill : 1 ≤ s.params.irFloodBits) (hs : JLive s)
    (h : JBlock env s t es shape ls a d) :
    ∃ fs ms, JBlock env s (detectFlood env t) (es ++ fs) (shape ++ detectFloodShape s) (ls ++ ms) false true ∧
      7 + (sampledBits fs).length + s.params.irZeroBits = detectLead s.params := by
  obtain ⟨enter, henter, henterLen⟩ := JBlock_enterShiftIr_high env hs h
  have hparams := JBlock_params henter
  cases hmode : s.params.detectMode with
  | irBits =>
    obtain ⟨fill, hfills, hfillLen⟩ := JBlock_pulses env s.params.irFloodBits hs henter
    refine ⟨enter ++ fill, [true, true, false, false] ++ List.replicate s.params.irFloodBits false, ?_, ?_⟩
    · rw [detectFlood, hparams, hmode, flood_false]
      simpa only [detectFloodShape, hmode, List.append_assoc, List.cons_append, List.nil_append] using hfills
    · simp only [sampledBits_append, List.length_append, henterLen, hfillLen, detectLead, hmode]
      omega
  | bypassCount =>
    obtain ⟨fill, levels, hfills, hfillLen⟩ := JBlock_fillToShiftDr env hfill hs henter
    refine ⟨enter ++ fill, [true, true, false, false] ++ levels, ?_, ?_⟩
    · rw [detectFlood, hparams, hmode]
      simpa only [detectFloodShape, hmode, List.append_assoc, List.cons_append, List.nil_append] using hfills
    · simp only [sampledBits_append, List.length_append, henterLen, hfillLen, detectLead, hmode]
      omega

/-- The state in which phase 3 begins. -/
def detectFill (env : Oracle) (s : State) : State :=
  let s := detectFlood env (restoreIdle env s)
  pulses env s.params.irZeroBits (drive .tdi false s)

/-- What phases 1 and 2 add to the trace. -/
def detectFillShape (s : State) : List Event :=
  walkShape s idleLevels ++ detectFloodShape s ++ .drive (s.role .tdi) false :: pulsesShape s s.params.irZeroBits

/-- Phases 1 and 2, in either mode. -/
theorem detectFill_block (env : Oracle) (hfill : 1 ≤ s.params.irFloodBits) (hs : JLive s) :
    ∃ es ls, JBlock env s (detectFill env s) es (detectFillShape s) ls false false ∧
      (sampledBits es).length = detectLead s.params := by
  obtain ⟨idle, hidle⟩ := tmsSeq_block env idleLevels hs
  obtain ⟨ones, levels, hones, hlead⟩ := JBlock_detectFlood env hfill hs hidle
  obtain ⟨zeros, hzeros, hzerosLen⟩ := JBlock_pulses env s.params.irZeroBits hs (JBlock_drive_tdi env hs hones false)
  refine ⟨_, _, JBlock_cast hzeros ?_ ?_ rfl rfl rfl, ?_⟩
  · rw [detectFill, ← JBlock_params hones]
    rfl
  · simp only [detectFillShape, List.append_assoc, List.singleton_append]
  · have hidleLen : (sampledBits idle).length = 7 := hidle.count
    simp only [sampledBits_append, List.length_append, hidleLen, hzerosLen, sampledBits, List.length_nil]
    omega

/-- A block and then phase 3. -/
theorem JBlock_countZeros (env : Oracle) (n : Nat) (hs : JLive s) (h : JBlock env s t es shape ls a d) :
    ∃ fs k, JBlock env s (countZeros env n 0 t).2 (es ++ fs) (shape ++ pulsesShape s k) (ls ++ List.replicate k a) a d ∧
      (countZeros env n 0 t).1 = leadingZeros (sampledBits fs) ∧ (sampledBits fs).length = k ∧
      k = min (leadingZeros (sampledBits fs) + 1) n := by
  obtain ⟨fs, k, hfs, hzeros, hlen, hk⟩ := countZeros_block env n 0 (JBlock_live hs h)
  rw [JBlock_tms hs h, JBlock_tdi hs h, pulsesShape_congr (JBlock_role h)] at hfs
  exact ⟨fs, k, JBlock_trans hs h hfs, by rw [hzeros, Nat.zero_add], hlen, hk⟩

/-- Phase 3, the closing walk and `CNT`, after phases 1 and 2. -/
theorem jdetectBody_eq (env : Oracle) (hfill : 1 ≤ s.params.irFloodBits) (hs : JLive s) {r : Nat × State}
    (hr : countZeros env (s.params.maxDevices + 1) 0 (drive .tdi true (detectFill env s)) = r) :
    jdetectBody env s = finish .eNone { restoreIdle env r.2 with cnt := detectCount s.params r.1 } := by
  obtain ⟨es, ls, h, -⟩ := detectFill_block env hfill hs
  have hparams : (restoreIdle env r.2).params = s.params := by
    obtain ⟨_, _, hcount, -⟩ := JBlock_countZeros env (s.params.maxDevices + 1) hs (JBlock_drive_tdi env hs h true)
    obtain ⟨_, hidle, -⟩ := JBlock_restoreIdle env hs hcount
    rw [← hr]
    exact JBlock_params hidle
  rw [← hparams, ← hr, ← JBlock_params h]
  rfl

theorem leadingZeros_append (bits rest : List Bool) : leadingZeros (bits ++ rest) =
    if leadingZeros bits = bits.length then bits.length + leadingZeros rest else leadingZeros bits := by
  rw [leadingZeros, List.takeWhile_append, apply_ite List.length, List.length_append]
  rfl

/-- R130: what is sampled after phase 3 does not change the count, unless phase 3 saw no 1 at all. -/
theorem leadingZeros_after_phase3 {bits : List Bool} {m : Nat}
    (hlen : bits.length = min (leadingZeros bits + 1) (m + 1)) (rest : List Bool) :
    leadingZeros (bits ++ rest) = leadingZeros bits ∨ m < leadingZeros bits ∧ m < leadingZeros (bits ++ rest) := by
  rw [leadingZeros_append]
  split
  next hall => exact .inr ⟨by omega, by omega⟩
  next => exact .inl rfl

/-- R27: the count fits the register. -/
theorem detectCount_toNat {p : Params} (hmax : p.maxDevices ≤ 128) (c : Nat) :
    (detectCount p c).toNat = if c ≤ p.maxDevices then c else 0 := by
  unfold detectCount
  split
  next hc => rw [if_neg (by omega)]; rfl
  next hc => rw [if_pos (by omega), BitVec.toNat_ofNat, Nat.mod_eq_of_lt (by omega)]

/-- The whole of `JDETECT`: the samples of phases 1 and 2, of phase 3, and of the closing walk. -/
theorem jdetectBody_block (env : Oracle) (hfill : 1 ≤ s.params.irFloodBits) (hs : JLive s) :
    ∃ t lead count close ls,
      jdetectBody env s =
        finish .eNone { t with cnt := detectCount s.params (leadingZeros (sampledBits count)) } ∧
      JBlock env s t (lead ++ count ++ close) (detectShape s (sampledBits count).length) (ls ++ idleLevels) false true ∧
      (sampledBits lead).length = detectLead s.params ∧
      (sampledBits count).length = min (leadingZeros (sampledBits count) + 1) (s.params.maxDevices + 1) := by
  obtain ⟨lead, levels, hlead, hleadLen⟩ := detectFill_block env hfill hs
  obtain ⟨count, k, hcount, hzeros, hlen, hk⟩ :=
    JBlock_countZeros env (s.params.maxDevices + 1) hs (JBlock_drive_tdi env hs hlead true)
  obtain ⟨close, hclose, -⟩ := JBlock_restoreIdle env hs hcount
  subst hlen
  refine ⟨_, lead ++ [.drive (s.role .tdi) true], count, close, _, ?_, JBlock_cast hclose rfl ?_ rfl rfl rfl, ?_, hk⟩
  · rw [jdetectBody_eq env hfill hs rfl, hzeros]
  · simp only [detectShape, detectFillShape, List.append_assoc, List.cons_append, List.nil_append]
  · simpa [sampledBits_append, sampledBits] using hleadLen

end Detect

/-- Settles O46: the closing walk's samples do not change what phase 3 counted. -/
theorem jdetectCounts : Obligations.JdetectCounts := by
  unfold Obligations.JdetectCounts
  refine ⟨(decode_eq_ok_iff _ _).mpr (by decide), fun s hs hj => ?_⟩
  have hlive := Inv_jlive hs hj
  obtain ⟨⟨⟨-, -, hdev, hmax, hfill, -⟩, -⟩, -, ⟨-, -, hne⟩, -⟩ := hs
  obtain ⟨t, lead, count, close, ls, hbody, h, hlead, hk⟩ := jdetectBody_block s.env (by omega) hlive
  have hdrop : (sampledBits (lead ++ count ++ close)).drop (detectLead s.params) =
      sampledBits count ++ sampledBits close := by
    rw [sampledBits_append, sampledBits_append, List.append_assoc, ← hlead, List.drop_left]
  have hzeros := leadingZeros_after_phase3 hk (sampledBits close)
  have hmin : (sampledBits count).length =
      min (leadingZeros (sampledBits count ++ sampledBits close) + 1) (s.params.maxDevices + 1) := by
    rcases hzeros with heq | ⟨hover, hover'⟩
    · rw [heq]; exact hk
    · omega
  have hcnt : (detectCount s.params (leadingZeros (sampledBits count))).toNat =
      if leadingZeros (sampledBits count ++ sampledBits close) ≤ s.params.maxDevices
      then leadingZeros (sampledBits count ++ sampledBits close) else 0 := by
    rw [detectCount_toNat hmax]
    rcases hzeros with heq | ⟨hover, hover'⟩
    · rw [heq]
    · rw [if_neg (by omega), if_neg (by omega)]
  rw [← hdrop] at hmin hcnt
  exact ⟨_, lead ++ count ++ close, _, _, (exec_jdetect hj).trans (congrArg _ hbody), (JBlock_trace h :), h.masked,
    h.ans, rfl, hmin, hcnt, congrArg (fun u => { u with cnt := detectCount s.params (leadingZeros (sampledBits count)) })
      (JBlock_finish_idle hne h)⟩

/-! #### `JDETECT` with no device (R130) -/

theorem countZeros_of_high {env : Oracle} {s : State} (h : (pulse env s).1 = true) (n c : Nat) :
    (countZeros env (n + 1) c s).1 = c := by
  rw [countZeros, if_pos h]

/-- A target that never answers 1 is counted to the end. -/
theorem countZeros_of_low {env : Oracle} (h : ∀ s, (pulse env s).1 = false) :
    ∀ (n c : Nat) (s : State), (countZeros env n c s).1 = c + n
  | 0, _, _ => rfl
  | n + 1, c, s => by
    rw [countZeros, if_neg (by simp [h]), countZeros_of_low h n]
    omega

/-- Settles O47: the count runs past the maximum, or stops at its first pulse. -/
theorem jdetectWithoutDevices : Obligations.JdetectWithoutDevices := by
  unfold Obligations.JdetectWithoutDevices
  intro s hs hj
  have hlive := Inv_jlive hs hj
  obtain ⟨⟨⟨-, -, hdev, -, hfill, -⟩, -⟩, -⟩ := hs
  have hcnt (env : Oracle) : (jdetectBody env s).cnt = detectCount s.params
      (countZeros env (s.params.maxDevices + 1) 0 (drive .tdi true (detectFill env s))).1 := by
    rw [jdetectBody_eq env (by omega) hlive rfl, finish_cnt]
  refine ⟨?_, ?_, ?_⟩
  · rw [hcnt, countZeros_of_low fun _ => rfl, detectCount, if_pos (by omega)]
  · rw [hcnt, countZeros_of_high rfl]
    rfl
  · obtain ⟨_, _, h, -⟩ := detectFill_block (loopback (s.role .tdi) (s.role .tdo)) (by omega) hlive
    have hrole := JBlock_role h
    rw [hcnt, countZeros_of_high (pulse_loopback (hrole .tdi) (hrole .tdo) (by rw [hrole]; exact hlive.tck_tdi) true)]
    rfl

/-! #### `JIDS` (R132) -/

section Ids
variable {env : Oracle} {s t : State} {es shape : List Event} {ls : List Bool} {a d : Bool}

/-- A block and then the data pulses. -/
theorem JBlock_readWords (env : Oracle) (n : Nat) (hs : JLive s) (h : JBlock env s t es shape ls a d) :
    ∃ fs, JBlock env s (readWords env n t).2 (es ++ fs) (shape ++ pulsesShape s (32 * n))
        (ls ++ List.replicate (32 * n) a) a d ∧ (sampledBits fs).length = 32 * n ∧
      ∀ k j, k < n → j < 32 → ((readWords env n t).1.getD k 0#32).getLsbD j = (sampledBits fs).getD (32 * k + j) false := by
  obtain ⟨fs, hfs, -, hwords⟩ := readWords_block env n (JBlock_live hs h)
  have hcount := hfs.count
  rw [JBlock_tms hs h, JBlock_tdi hs h, pulsesShape_congr (JBlock_role h)] at hfs
  exact ⟨fs, JBlock_trans hs h hfs, by simpa using hcount, hwords⟩

/-- The whole of `JIDS n` for `n` in range: the samples of the way to Shift-DR, of the words, of the closing walk. -/
theorem jidsBody_block (env : Oracle) {n : Nat} (hn : n ≤ s.params.maxDevices) (hs : JLive s) :
    ∃ t words enter data close ls,
      jidsBody env n s =
        finish .eNone { t with idbuf := words ++ List.replicate (s.params.maxDevices - n) 0#32 } ∧
      JBlock env s t (enter ++ data ++ close) (idsShape s n) (ls ++ idleLevels) false true ∧
      (sampledBits enter).length = 10 ∧ (sampledBits data).length = 32 * n ∧ (sampledBits close).length = 7 ∧
      words.length = n ∧
      ∀ k j, k < n → j < 32 → (words.getD k 0#32).getLsbD j = (sampledBits data).getD (32 * k + j) false := by
  obtain ⟨idle, hidle⟩ := tmsSeq_block env idleLevels hs
  obtain ⟨walk, hwalk, hwalkLen⟩ := JBlock_tmsSeq env [true, false, false] hs hidle
  have htdi := JBlock_drive_tdi env hs hwalk true
  obtain ⟨data, hdata, hdataLen, hwords⟩ := JBlock_readWords env n hs htdi
  obtain ⟨close, hclose, hcloseLen⟩ := JBlock_restoreIdle env hs hdata
  refine ⟨_, _, idle ++ walk ++ [.drive (s.role .tdi) true], data, close, _, ?_, JBlock_cast hclose rfl ?_ rfl rfl rfl,
    ?_, hdataLen, hcloseLen, readWords_length env n _, hwords⟩
  · simp only [jidsBody, if_neg (Nat.not_lt.mpr hn), restoreIdle, tmsSeq_idbuf]
    rfl
  · simp only [idsShape, List.append_assoc, List.cons_append, List.nil_append]
  · have hidleLen : (sampledBits idle).length = 7 := hidle.count
    simp [sampledBits_append, sampledBits, hidleLen, hwalkLen]

end Ids

/-- Settles O48: bit `j` of word `k` stands behind the ten samples of the way to Shift-DR. -/
theorem jidsReadsWords : Obligations.JidsReadsWords := by
  unfold Obligations.JidsReadsWords
  refine ⟨fun n => decode_countWord (i := .jids n) rfl, fun s n hs hj hn => ?_⟩
  have hlive := Inv_jlive hs hj
  obtain ⟨-, -, ⟨-, -, hne⟩, -⟩ := hs
  obtain ⟨t, words, enter, data, close, ls, hbody, h, henter, hdata, hclose, hlen, hwords⟩ :=
    jidsBody_block s.env hn hlive
  refine ⟨_, enter ++ data ++ close, (exec_jids hj n).trans (congrArg _ hbody), (JBlock_trace h :), h.masked, h.ans,
    ?_, ?_, fun k j hk hj32 => ?_, fun k hk hkmax => ?_,
    congrArg (fun u => { u with idbuf := words ++ List.replicate (s.params.maxDevices - n) 0#32 })
      (JBlock_finish_idle hne h)⟩
  · simp only [sampledBits_append, List.length_append]
    omega
  · rw [finish_idbuf, List.length_append, List.length_replicate]
    omega
  · rw [finish_idbuf, List.getD_append _ _ _ _ (by omega), hwords k j hk hj32, sampledBits_append, sampledBits_append,
      List.getD_append _ _ _ _ (by rw [List.length_append]; omega), List.getD_append_right _ _ _ _ (by omega), henter]
    congr 1
    omega
  · rw [finish_idbuf, List.getD_append_right _ _ _ _ (by omega), List.getD_replicate _ (by omega)]

/-! #### `JBYPASS` (R133) -/

section Bypass
variable {env : Oracle} {s : State}

/-- The way to the BYPASS registers (R133). -/
theorem enterBypass_block (env : Oracle) (hfill : 1 ≤ s.params.irFloodBits) (hs : JLive s) :
    ∃ es ls, JBlock env s (enterBypass env s) es
        (walkShape s idleLevels ++ walkShape s [true, true, false, false] ++ .drive (s.role .tdi) true ::
          floodExitShape s s.params.irFloodBits ++ walkShape s [true, false] ++ walkShape s [true, false, false])
        ls false true ∧ (sampledBits es).length = s.params.irFloodBits + 16 := by
  obtain ⟨idle, hidle⟩ := tmsSeq_block env idleLevels hs
  obtain ⟨enter, henter, henterLen⟩ := JBlock_enterShiftIr_high env hs hidle
  obtain ⟨fill, levels, hfills, hfillLen⟩ := JBlock_fillToShiftDr env hfill hs henter
  refine ⟨_, _, JBlock_cast hfills ?_ ?_ rfl rfl rfl, ?_⟩
  · rw [enterBypass, ← JBlock_params henter]
    rfl
  · simp only [List.append_assoc, List.cons_append, List.nil_append]
  · have hidleLen : (sampledBits idle).length = 7 := hidle.count
    simp only [sampledBits_append, List.length_append]
    omega

/-- `ACC` and `ECHO_MATCH` of `JBYPASS n` for `n` in range, and the closing walk. -/
theorem jbypassBody_eq (env : Oracle) {n : Nat} (hn : n ≤ s.params.maxDevices) (hfill : 1 ≤ s.params.irFloodBits)
    (hs : JLive s) {r : Word × State} (hr : shiftArray env s.pat (32 + n) (enterBypass env s) = r) :
    jbypassBody env n s = finish .eNone { restoreIdle env r.2 with
      acc := bitrev32 r.1, echoMatch := decide (bitrev32 r.1 = s.pat) } := by
  obtain ⟨es, ls, h, -⟩ := enterBypass_block env hfill hs
  have hpat : (restoreIdle env r.2).pat = s.pat := by
    obtain ⟨_, hshift, -⟩ := JBlock_shiftArray env s.pat (n := 32 + n) (by omega) hs h
    obtain ⟨_, hidle, -⟩ := JBlock_restoreIdle env hs hshift
    rw [← hr]
    exact JBlock_pat hidle
  simp only [jbypassBody, if_neg (Nat.not_lt.mpr hn), JBlock_pat h, hr, hpat]

/-- The whole of `JBYPASS n` for `n` in range: the samples of the way to Shift-DR, of the shift, of the closing walk. -/
theorem jbypassBody_block (env : Oracle) {n : Nat} (hn : n ≤ s.params.maxDevices) (hfill : 1 ≤ s.params.irFloodBits)
    (hs : JLive s) :
    ∃ t acc enter shift close ls,
      jbypassBody env n s =
        finish .eNone { t with acc := bitrev32 acc, echoMatch := decide (bitrev32 acc = s.pat) } ∧
      JBlock env s t (enter ++ shift ++ close) (bypassShape s n) (ls ++ idleLevels) false (s.pat.getLsbD (31 + n)) ∧
      (sampledBits enter).length = s.params.irFloodBits + 16 ∧ (sampledBits shift).length = 32 + n ∧
      (sampledBits close).length = 7 ∧ acc = (sampledBits shift).foldl shiftIn 0#32 := by
  obtain ⟨enter, levels, henter, henterLen⟩ := enterBypass_block env hfill hs
  obtain ⟨shift, hshift, hshiftLen, hacc⟩ := JBlock_shiftArray env s.pat (n := 32 + n) (by omega) hs henter
  obtain ⟨close, hclose, hcloseLen⟩ := JBlock_restoreIdle env hs hshift
  exact ⟨_, _, enter, shift, close, _, jbypassBody_eq env hn hfill hs rfl,
    JBlock_cast hclose rfl rfl rfl rfl (by congr 1; omega), henterLen, hshiftLen, hcloseLen, hacc⟩

/-- R133: the last 32 bits of a shift of `32 + n`, the first of them in bit 0. -/
theorem bitrev32_foldl_shiftIn_getLsbD {bits : List Bool} {n j : Nat} (hlen : bits.length = 32 + n) (hj : j < 32) :
    (bitrev32 (bits.foldl shiftIn 0#32)).getLsbD j = bits.getD (n + j) false := by
  rw [bitrev32_getLsbD _ j hj, foldl_shiftIn_getLsbD _ _ (by omega), if_pos (by omega)]
  congr 1
  omega

end Bypass

/-- Settles O49: bit `j` of `ACC` is the sample `n` bits later than the `j`-th of the shift. -/
theorem jbypassEchoes : Obligations.JbypassEchoes := by
  unfold Obligations.JbypassEchoes
  refine ⟨fun n => decode_countWord (i := .jbypass n) rfl, fun s n hs hj hn => ?_⟩
  have hlive := Inv_jlive hs hj
  obtain ⟨⟨⟨-, -, hdev, -, hfill, -⟩, -⟩, -, ⟨-, -, hne⟩, -⟩ := hs
  obtain ⟨t, acc, enter, shift, close, ls, hbody, h, henter, hshift, hclose, hacc⟩ :=
    jbypassBody_block s.env hn (by omega) hlive
  refine ⟨_, enter ++ shift ++ close, (exec_jbypass hj n).trans (congrArg _ hbody), (JBlock_trace h :), h.masked, h.ans,
    ?_, fun j hj32 => ?_, rfl,
    congrArg (fun u => { u with acc := bitrev32 acc, echoMatch := decide (bitrev32 acc = s.pat) })
      (JBlock_finish_idle hne h)⟩
  · simp only [sampledBits_append, List.length_append]
    omega
  · rw [finish_acc, hacc, bitrev32_foldl_shiftIn_getLsbD hshift hj32, sampledBits_append, sampledBits_append,
      List.getD_append _ _ _ _ (by rw [List.length_append]; omega), List.getD_append_right _ _ _ _ (by omega), henter]
    congr 1
    omega

/-- Settles O50: on the wire the shift receives the bits it sends, and `ACC` keeps those from bit `n` on. -/
theorem jbypassOnWire : Obligations.JbypassOnWire := by
  unfold Obligations.JbypassOnWire
  intro s n hs hj hn
  have hlive := Inv_jlive hs hj
  obtain ⟨⟨⟨-, -, hdev, -, hfill, -⟩, -⟩, -⟩ := hs
  obtain ⟨_, _, h, -⟩ := enterBypass_block (loopback (s.role .tdi) (s.role .tdo)) (by omega) hlive
  have hrole := JBlock_role h
  rw [jbypassBody_eq _ hn (by omega) hlive rfl, finish_acc, shiftArray,
    shiftLoop_loopback _ _ _ (hrole .tdi) (hrole .tdo) (by rw [hrole]; exact hlive.tck_tdi)]
  refine BitVec.eq_of_getLsbD_eq fun j hj32 => ?_
  rw [bitrev32_foldl_shiftIn_getLsbD (sentBits_length _ _) hj32, sentBits_getD _ (by omega), BitVec.getLsbD_ushiftRight]

end Sys2Proof.Machine

/-! ### The SWD bit engine and the IDCODE reader (R150 to R162) -/

namespace Sys2Proof.Machine

/-! #### The binding check (R183) -/

section Binding
variable {s : State} {body : State → State}

theorem whenSBound_bound (hb : s.sbound = true) : whenSBound body s = body s := if_pos hb

theorem whenSBound_unbound (hb : s.sbound = false) : whenSBound body s = finish .eUnbound s :=
  if_neg (by simp [hb])

/-- R183: each SWD command makes the check before anything else. -/
theorem exec_needsSwd {i : Instr} (hi : needsSwd i = true) (s : State) :
    ∃ body, exec i s = .next (whenSBound body s) := by
  cases i <;> simp only [needsSwd, reduceCtorEq] at hi <;> exact ⟨_, rfl⟩

theorem exec_swd_unbound {i : Instr} (hi : needsSwd i = true) (hb : s.sbound = false) :
    exec i s = .next { s with err := .eUnbound, activity := .idle } := by
  obtain ⟨body, hbody⟩ := exec_needsSwd hi s
  rw [hbody, whenSBound_unbound hb, finish]

end Binding

/-! #### The sequences of R154 to R157 and R159 as lists of bits -/

section Sequences

theorem swdWrites_params : ∀ (bs : List Bool) (s : State), (swdWrites bs s).params = s.params
  | [], _ => rfl
  | b :: bs, s => swdWrites_params bs (swdWrite b s)

theorem swdWrites_sbound : ∀ (bs : List Bool) (s : State), (swdWrites bs s).sbound = s.sbound
  | [], _ => rfl
  | b :: bs, s => swdWrites_sbound bs (swdWrite b s)

theorem swdWrites_env : ∀ (bs : List Bool) (s : State), (swdWrites bs s).env = s.env
  | [], _ => rfl
  | b :: bs, s => swdWrites_env bs (swdWrite b s)

/-- Bit writes do not look at `SWD_OK` (R150). -/
theorem swdWrites_withSwdOk (ok : Bool) : ∀ (bs : List Bool) (s : State),
    swdWrites bs { s with swdOk := ok } = { swdWrites bs s with swdOk := ok }
  | [], _ => rfl
  | b :: bs, s => swdWrites_withSwdOk ok bs (swdWrite b s)

variable (s : State)

theorem lineReset_eq : lineReset s = swdWrites (lineResetBits s.params) s := rfl

theorem wake_eq : wake s = swdWrites wakeBits s := by
  simp only [wakeBits, swdWrites_append]
  rfl

theorem switchToSwd_eq : switchToSwd s = swdWrites (lineResetBits s.params ++ lsbits swdJ2s 16) s := by
  rw [swdWrites_append]
  rfl

theorem switchToJtag_eq : switchToJtag s = swdWrites (lineResetBits s.params ++ lsbits swdS2j 16) s := by
  rw [swdWrites_append]
  rfl

theorem idleCycles_eq : idleCycles s = swdWrites (List.replicate s.params.swdIdleCycles false) s := rfl

/-- What `SPROBE` writes before its transaction (R159). -/
theorem probeLead_eq : idleCycles (lineReset (switchToSwd (wake (lineReset s)))) =
    swdWrites (probeBits s.params) s := by
  simp only [lineReset_eq, wake_eq, switchToSwd_eq, idleCycles_eq, swdWrites_params, probeBits, swdWrites_append]

end Sequences

/-- `s` after a command that writes the bits and finishes (R154 to R157). -/
def afterWrites (bs : List Bool) (s : State) : State := finish .eNone (swdWrites bs s)

theorem afterWrites_params (bs : List Bool) (s : State) : (afterWrites bs s).params = s.params := swdWrites_params bs s

theorem afterWrites_sbound (bs : List Bool) (s : State) : (afterWrites bs s).sbound = s.sbound := swdWrites_sbound bs s

theorem afterWrites_append (as bs : List Bool) (s : State) :
    afterWrites (as ++ bs) s = afterWrites bs (afterWrites as s) := by
  rw [afterWrites, afterWrites, afterWrites, swdWrites_finished, swdWrites_append]
  rfl

theorem lsbits_length {w : Nat} (v : BitVec w) (n : Nat) : (lsbits v n).length = n := by simp [lsbits]

theorem wakeBits_length : wakeBits.length = 140 := by
  simp only [wakeBits, List.length_append, lsbits_length]

theorem wakeBits_getLastD (v : Bool) : wakeBits.getLastD v = false := getLastD_append _ (lsbits swdActivation 8) v

theorem lsbits_swdJ2s : lsbits swdJ2s 16 =
    [false, true, true, true, true, false, false, true, true, true, true, false, false, true, true, true] := by decide

theorem lsbits_swdS2j : lsbits swdS2j 16 =
    [false, false, true, true, true, true, false, false, true, true, true, false, false, true, true, true] := by decide

theorem lineResetBits_length (p : Params) : (lineResetBits p).length = p.lineResetCycles := List.length_replicate

theorem lineResetBits_getLastD {p : Params} (hp : p.Wf) (v : Bool) : (lineResetBits p).getLastD v = true := by
  obtain ⟨-, -, -, -, -, -, hcycles, -⟩ := hp
  obtain ⟨n, hn⟩ : ∃ n, p.lineResetCycles = n + 1 := ⟨p.lineResetCycles - 1, by omega⟩
  rw [lineResetBits, hn, List.replicate_succ', getLastD_append]
  rfl

/-! #### What each command runs when SWD is bound -/

section Bound
variable {s : State} (hb : s.sbound = true)
include hb

theorem exec_slrst : exec .slrst s = .next (afterWrites (lineResetBits s.params) s) :=
  congrArg Host.Outcome.next (whenSBound_bound hb)

theorem exec_swake : exec .swake s = .next (afterWrites wakeBits s) := by
  rw [afterWrites, ← wake_eq]
  exact congrArg Host.Outcome.next (whenSBound_bound hb)

theorem exec_sj2s :
    exec .sj2s s = .next (afterWrites (lineResetBits s.params ++ lsbits swdJ2s 16) s) := by
  rw [afterWrites, ← switchToSwd_eq]
  exact congrArg Host.Outcome.next (whenSBound_bound hb)

theorem exec_ss2j :
    exec .ss2j s = .next (afterWrites (lineResetBits s.params ++ lsbits swdS2j 16) s) := by
  rw [afterWrites, ← switchToJtag_eq]
  exact congrArg Host.Outcome.next (whenSBound_bound hb)

theorem exec_sidcode : exec .sidcode s = .next (idcodeTxn s.env s) :=
  congrArg Host.Outcome.next (whenSBound_bound hb)

theorem exec_sprobe : exec .sprobe s = .next (idcodeTxn s.env (swdWrites (probeBits s.params) s)) := by
  rw [← probeLead_eq]
  exact congrArg Host.Outcome.next (whenSBound_bound hb)

end Bound

/-! #### Line reset, wake and switch (R154 to R157) -/

/-- Settles O52: the bits of a line reset, the last of them a one. -/
theorem slrstResetsLine : Obligations.SlrstResetsLine := by
  unfold Obligations.SlrstResetsLine
  refine ⟨(decode_eq_ok_iff _ _).mpr (by decide), fun s => exec_swd_unbound rfl, fun s hs hb => ?_⟩
  have hlive := Inv_slive hs hb
  obtain ⟨⟨hparams, -⟩, -⟩ := hs
  rw [exec_slrst hb, afterWrites, swdWrites_finish hlive _ true (lineResetBits_getLastD hparams _)]
  rfl

/-- Settles O53: the bits of the wake sequence, the last of them a zero. -/
theorem swakeWakes : Obligations.SwakeWakes := by
  unfold Obligations.SwakeWakes
  refine ⟨(decode_eq_ok_iff _ _).mpr (by decide), fun s => exec_swd_unbound rfl,
    ⟨wakeBits_length, by decide, by decide⟩, fun s hs hb => ?_⟩
  rw [exec_swake hb, afterWrites, swdWrites_finish (Inv_slive hs hb) _ false (wakeBits_getLastD _)]

/-- Settles O54: a line reset, then sixteen bits of which the last is a one. -/
theorem switchSequences : Obligations.SwitchSequences := by
  unfold Obligations.SwitchSequences
  have hneeds : ∀ i ∈ [Instr.sj2s, .ss2j], needsSwd i = true := by simp [needsSwd]
  refine ⟨(decode_eq_ok_iff _ _).mpr (by decide), (decode_eq_ok_iff _ _).mpr (by decide),
    fun s hb i hi => exec_swd_unbound (hneeds i hi) hb, fun s hs hb => ?_⟩
  have hlive := Inv_slive hs hb
  rw [exec_sj2s hb, exec_ss2j hb, afterWrites, afterWrites, swdWrites_finish hlive _ true (getLastD_append _ _ _),
    swdWrites_finish hlive _ true (getLastD_append _ _ _), lsbits_swdJ2s, lsbits_swdS2j]
  exact ⟨rfl, rfl⟩

/-! #### The IDCODE transaction (R158) -/

section Transaction
variable {env : Oracle} {s t : State} {es shape : List Event} {x : Line}

/-- `s` with the flags a transaction has written once its ACK is known (R158). -/
def State.acked (s : State) (ack : BitVec 3) : State := { s with swdOk := false, swdAck := ack }

theorem SLive_acked (hs : SLive s) (ack : BitVec 3) : SLive (s.acked ack) :=
  ⟨hs.clk_lt, hs.dio_lt, hs.clk_dio, hs.clk_low⟩

/-- No SWD sequence looks at `SWD_ACK`. -/
theorem SBlock_withSwdAck (h : SBlock env s t es shape x) (ack : BitVec 3) :
    SBlock env { s with swdAck := ack } { t with swdAck := ack } es shape x :=
  ⟨congrArg (fun u => { u with swdAck := ack }) h.frame, h.ans, h.masked⟩

/-- A block and then one SWCLK clock (R152). -/
theorem SBlock_swdTurn (hs : SLive s) (h : SBlock env s t es shape x) :
    SBlock env s (swdTurn t) (es ++ swdClockShape s) (shape ++ swdClockShape s) x := by
  have hturn := swdTurn_block env (SBlock_live hs h)
  rw [SBlock_role h, SBlock_dio hs h, swdClockShape_congr (SBlock_role h)] at hturn
  exact SBlock_trans h hturn

/-- A block and then `Cfg` of SWDIO (R152, R158). -/
theorem SBlock_cfg_dio (hs : SLive s) (h : SBlock env s t es shape x) (d : Dir) (v : Option Bool) :
    SBlock env s (cfg (t.role .swdio) d v t) (es ++ [.cfg (s.role .swdio) d v]) (shape ++ [.cfg (s.role .swdio) d v])
      ⟨d, s.pull, v.getD x.out⟩ := by
  have hcfg := cfg_dio_block env t d v
  rw [SBlock_role h, SBlock_dio hs h, SBlock_pull h] at hcfg
  rw [SBlock_role h]
  exact SBlock_trans h hcfg

/-- A block and then `SwdRead` (R151). -/
theorem SBlock_swdRead (hs : SLive s) (h : SBlock env s t es shape x) :
    ∃ fs, SBlock env s (swdRead env t).2 (es ++ fs) (shape ++ swdReadShape s 1) x ∧
      sampledBits fs = [(swdRead env t).1] := by
  have hread := swdRead_block env (SBlock_live hs h)
  rw [SBlock_role h, SBlock_dio hs h, swdClockShape_congr (SBlock_role h)] at hread
  exact ⟨_, SBlock_cast (SBlock_trans h hread) rfl (by simp [swdReadShape]) rfl, rfl⟩

/-- A block and then `n` times `SwdRead` (R151). -/
theorem SBlock_swdReads (n : Nat) (hs : SLive s) (h : SBlock env s t es shape x) :
    ∃ fs, SBlock env s (swdReads env n t).2 (es ++ fs) (shape ++ swdReadShape s n) x ∧
      (swdReads env n t).1 = sampledBits fs ∧ (sampledBits fs).length = n := by
  obtain ⟨fs, hfs, hbits, hlen⟩ := swdReads_block env n (SBlock_live hs h)
  rw [SBlock_role h, SBlock_dio hs h, swdReadShape_congr (SBlock_role h)] at hfs
  exact ⟨fs, SBlock_trans h hfs, hbits, hlen⟩

/-- A block and then the closing turnaround (R158). -/
theorem SBlock_closeTransaction (hs : SLive s) (h : SBlock env s t es shape x) :
    SBlock env s (closeTransaction t) (es ++ closeShape s) (shape ++ closeShape s) ⟨.output, s.pull, false⟩ := by
  simpa only [closeTransaction, closeShape, List.append_assoc, Option.getD_some] using
    SBlock_cfg_dio hs (SBlock_swdTurn hs h) .output (some false)

/-- The middle of `requestIdcode` (R158): release of SWDIO, turnaround, three ACK bits. -/
def awaitAck (env : Oracle) (s : State) : List Bool × State :=
  swdReads env 3 (swdTurn (cfg (s.role .swdio) .input none s))

theorem awaitAck_block (env : Oracle) (hs : SLive s) (bits : List Bool) :
    ∃ es, SBlock env s (awaitAck env (swdWrites bits s)).2 es
        (swdWriteShape s bits ++ [.cfg (s.role .swdio) .input none] ++ swdClockShape s ++ swdReadShape s 3)
        ⟨.input, s.pull, bits.getLastD (s.line (s.role .swdio)).out⟩ ∧
      (awaitAck env (swdWrites bits s)).1 = sampledBits es ∧ (sampledBits es).length = 3 := by
  have hturn := SBlock_swdTurn hs (SBlock_cfg_dio hs (swdWrites_block env bits hs) .input none)
  obtain ⟨ack, hack, hbits, hlen⟩ := SBlock_swdReads 3 hs hturn
  have hnone : sampledBits (swdWriteShape s bits ++ [.cfg (s.role .swdio) .input none] ++ swdClockShape s ++ ack) =
      sampledBits ack := by
    simp only [sampledBits_append, sampledBits_swdWriteShape]
    rfl
  exact ⟨_, hack, hbits.trans hnone.symm, (congrArg List.length hnone).trans hlen⟩

theorem requestIdcode_eq (env : Oracle) (s : State) : requestIdcode env s =
    { (awaitAck env (swdWrites (lsbits swdHeader 8) (s.acked s.swdAck))).2 with
      swdAck := firstBitLow 3 (awaitAck env (swdWrites (lsbits swdHeader 8) (s.acked s.swdAck))).1 } := rfl

/-- Bit writes do not look at the flags of a transaction (R150). -/
theorem swdWrites_acked (bs : List Bool) (s : State) :
    (swdWrites bs s).acked (swdWrites bs s).swdAck = swdWrites bs (s.acked s.swdAck) :=
  (swdWrites_withSwdOk false bs s).symm

/-- The transaction up to its ACK, after `lead` bits that belong to no transaction (R158, R159). -/
theorem requestIdcode_block (env : Oracle) (hs : SLive s) (lead : List Bool) :
    ∃ es, (sampledBits es).length = 3 ∧
      SBlock env (s.acked (firstBitLow 3 (sampledBits es))) (requestIdcode env (swdWrites lead s)) es
        (swdWriteShape s lead ++ requestShape s) ⟨.input, s.pull, true⟩ := by
  obtain ⟨es, h, hbits, hlen⟩ := awaitAck_block env (SLive_acked hs s.swdAck) (lead ++ lsbits swdHeader 8)
  refine ⟨es, hlen, ?_⟩
  rw [requestIdcode_eq, swdWrites_acked, ← swdWrites_append, hbits]
  refine SBlock_cast (SBlock_withSwdAck h _) rfl ?_ ?_
  · simp only [requestShape, swdWriteShape, List.flatMap_append, List.append_assoc]
    rfl
  · rw [getLastD_append]
    rfl

/-- What an IDCODE transaction does, after `lead` bits that belong to none (R158 to R161): from `s` to `t`, with the new
events `new`. -/
structure IdcodeRead (env : Oracle) (lead : List Bool) (s t : State) (new : List Event) : Prop where
  trace : t.trace = s.trace ++ new
  ans : answered env s.hist new
  masked : new.map Event.masked = swdWriteShape s lead ++ transactionShape s (t.swdAck == 0b001#3)
  ack : ∀ i, i < 3 → t.swdAck.getLsbD i = (sampledBits new).getD i false
  ok : t.swdAck = 0b001#3 → (sampledBits new).length = 36 ∧ t.swdOk = true ∧ t.err = .eNone ∧
    t.swdParity = (sampledBits new).getD 35 false ∧
    ∀ i, i < 32 → t.swdIdcode.getLsbD i = (sampledBits new).getD (3 + i) false
  other : t.swdAck ≠ 0b001#3 → (sampledBits new).length = 3 ∧ t.swdOk = false ∧ t.err = .eSwdAck ∧
    t.swdParity = false ∧ t.swdIdcode = 0#32
  frame : t = { s with
    lines := s.lines.set (s.role .swdio) ⟨.output, s.pull, false⟩, hist := t.hist
    sbit := (sampledBits new).getLastD s.sbit, swdAck := t.swdAck, swdOk := t.swdOk, swdParity := t.swdParity
    swdIdcode := t.swdIdcode, err := t.err, activity := .idle }

/-- The end of a transaction (R158): the closing turnaround and the result registers. -/
theorem SBlock_finishIdcode {lead : List Bool} {ack : BitVec 3} {c : Code} {id : Word} {parity ok : Bool} (hs : SLive s)
    (h : SBlock env (s.acked ack) t es
      (swdWriteShape s lead ++ requestShape s ++ if ack = 0b001#3 then swdReadShape s 33 else []) x)
    (hack : ∀ i, i < 3 → ack.getLsbD i = (sampledBits es).getD i false)
    (hok : ack = 0b001#3 → (sampledBits es).length = 36 ∧ ok = true ∧ c = .eNone ∧
      parity = (sampledBits es).getD 35 false ∧ ∀ i, i < 32 → id.getLsbD i = (sampledBits es).getD (3 + i) false)
    (hother : ack ≠ 0b001#3 →
      (sampledBits es).length = 3 ∧ ok = false ∧ c = .eSwdAck ∧ parity = false ∧ id = 0#32) :
    IdcodeRead env lead s (finish c { closeTransaction t with swdIdcode := id, swdParity := parity, swdOk := ok })
      (es ++ closeShape s) := by
  have hclose : SBlock env (s.acked ack) (closeTransaction t) (es ++ closeShape s) (_ ++ closeShape s)
    ⟨.output, s.pull, false⟩ := SBlock_closeTransaction (SLive_acked hs ack) h
  have hbits : sampledBits (es ++ closeShape s) = sampledBits es := by
    rw [sampledBits_append]
    exact List.append_nil _
  rw [hclose.frame]
  constructor
  case trace => simp [State.trace, State.acked]
  case ans => exact hclose.ans
  case masked =>
    change _ = swdWriteShape s lead ++ transactionShape s (ack == 0b001#3)
    simp only [hclose.masked, transactionShape, List.append_assoc, beq_iff_eq]
  case ack => rw [hbits]; exact hack
  case ok => rw [hbits]; exact hok
  case other => rw [hbits]; exact hother
  case frame => rfl

/-- R158 after an ACK that is not OK. -/
theorem abortIdcode_reads {lead : List Bool} (hs : SLive s) (hlen : (sampledBits es).length = 3)
    (hother : firstBitLow 3 (sampledBits es) ≠ 0b001#3)
    (h : SBlock env (s.acked (firstBitLow 3 (sampledBits es))) t es (swdWriteShape s lead ++ requestShape s) x) :
    IdcodeRead env lead s (abortIdcode t) (es ++ closeShape s) := by
  have hok : (closeTransaction t).swdOk = false := by
    rw [(SBlock_closeTransaction (SLive_acked hs _) h).frame]
    rfl
  have hend : abortIdcode t = finish .eSwdAck
      { closeTransaction t with swdIdcode := 0#32, swdParity := false, swdOk := false } :=
    congrArg (fun ok => finish .eSwdAck
      { closeTransaction t with swdIdcode := 0#32, swdParity := false, swdOk := ok }) hok
  rw [hend]
  exact SBlock_finishIdcode hs (SBlock_cast h rfl (by rw [if_neg hother, List.append_nil]) rfl)
    (fun i hi => firstBitLow_getLsbD 3 _ i hi) (fun hack => absurd hack hother) fun _ => ⟨hlen, rfl, rfl, rfl, rfl⟩

/-- R158 after ACK OK. -/
theorem readIdcode_reads {lead : List Bool} (hs : SLive s) (hlen : (sampledBits es).length = 3)
    (hack : firstBitLow 3 (sampledBits es) = 0b001#3)
    (h : SBlock env (s.acked (firstBitLow 3 (sampledBits es))) t es (swdWriteShape s lead ++ requestShape s) x) :
    ∃ new, IdcodeRead env lead s (readIdcode env t) new := by
  have hs' := SLive_acked hs (firstBitLow 3 (sampledBits es))
  obtain ⟨data, hdata, hword, hdataLen⟩ := SBlock_swdReads 32 hs' h
  obtain ⟨last, hlast, hparity⟩ := SBlock_swdRead hs' hdata
  have hbits : sampledBits (es ++ data ++ last) =
      sampledBits es ++ sampledBits data ++ [(swdRead env (swdReads env 32 t).2).1] := by
    rw [sampledBits_append, sampledBits_append, hparity]
  refine ⟨_, SBlock_finishIdcode hs (SBlock_cast hlast rfl ?_ rfl) (fun i hi => ?_)
    (fun _ => ⟨?_, rfl, rfl, ?_, fun i hi => ?_⟩) fun hother => absurd hack hother⟩
  · rw [if_pos hack, List.append_assoc]
    congr 1
  · rw [firstBitLow_getLsbD 3 _ i hi, hbits, List.append_assoc, List.getD_append _ _ _ _ (by omega)]
  · simp only [hbits, List.length_append, List.length_singleton]
    omega
  · rw [hbits, List.getD_append_right _ _ _ _ (by rw [List.length_append]; omega)]
    simp [hlen, hdataLen]
  · rw [firstBitLow_getLsbD 32 _ i hi, hword, hbits, List.getD_append _ _ _ _ (by rw [List.length_append]; omega),
      List.getD_append_right _ _ _ _ (by omega)]
    congr 1
    omega

/-- `IdcodeTxn()` (R158), after `lead` bits. -/
theorem idcodeTxn_reads (env : Oracle) (hs : SLive s) (lead : List Bool) :
    ∃ new, IdcodeRead env lead s (idcodeTxn env (swdWrites lead s)) new := by
  obtain ⟨es, hlen, h⟩ := requestIdcode_block env hs lead
  have hack : (requestIdcode env (swdWrites lead s)).swdAck = firstBitLow 3 (sampledBits es) := by
    rw [h.frame]
    rfl
  simp only [idcodeTxn, hack]
  split
  next hok => exact readIdcode_reads hs hlen hok h
  next hother => exact ⟨_, abortIdcode_reads hs hlen hother h⟩

end Transaction

/-- Settles O55: the transaction with nothing before it. -/
theorem sidcodeReads : Obligations.SidcodeReads := by
  unfold Obligations.SidcodeReads
  refine ⟨(decode_eq_ok_iff _ _).mpr (by decide), fun s => exec_swd_unbound rfl, fun s hs hb => ?_⟩
  obtain ⟨new, h⟩ := idcodeTxn_reads s.env (Inv_slive hs hb) []
  exact ⟨_, new, _, exec_sidcode hb, h.trace, h.ans, rfl, h.masked, h.ack, h.ok, h.other, h.frame⟩

/-- Settles O56: the transaction after the bits that `SPROBE` writes. -/
theorem sprobeProbes : Obligations.SprobeProbes := by
  unfold Obligations.SprobeProbes
  refine ⟨(decode_eq_ok_iff _ _).mpr (by decide), fun s => exec_swd_unbound rfl, fun s hs hb => ?_⟩
  obtain ⟨new, h⟩ := idcodeTxn_reads s.env (Inv_slive hs hb) (probeBits s.params)
  exact ⟨_, new, _, exec_sprobe hb, h.trace, h.ans, rfl, h.masked, h.ack, h.ok, h.other, h.frame⟩

/-! #### `SPROBE` as a sequence of commands (R159) -/

section Finished
variable (env : Oracle) (c : Code)

/-- `SwdRead` does not look at `ERR` or the activity (R151). -/
theorem swdRead_finished (s : State) : swdRead env (finish c s) = ((swdRead env s).1, finish c (swdRead env s).2) := rfl

theorem swdReads_finished : ∀ (n : Nat) (s : State),
    swdReads env n (finish c s) = ((swdReads env n s).1, finish c (swdReads env n s).2)
  | 0, _ => rfl
  | n + 1, s => by simp only [swdReads, swdRead_finished, swdReads_finished n]

theorem awaitAck_finished (s : State) :
    awaitAck env (finish c s) = ((awaitAck env s).1, finish c (awaitAck env s).2) :=
  swdReads_finished env c 3 (swdTurn (cfg (s.role .swdio) .input none s))

theorem requestIdcode_finished (s : State) : requestIdcode env (finish c s) = finish c (requestIdcode env s) := by
  have hacked : (finish c s).acked (finish c s).swdAck = finish c (s.acked s.swdAck) := rfl
  rw [requestIdcode_eq, requestIdcode_eq, hacked, swdWrites_finished, awaitAck_finished]
  rfl

/-- The last lines of `readIdcode` (R158): the closing turnaround and the result registers. -/
def storeIdcode (id : Word) (parity : Bool) (s : State) : State :=
  finish .eNone { closeTransaction s with swdIdcode := id, swdParity := parity, swdOk := true }

theorem storeIdcode_finished (id : Word) (parity : Bool) (s : State) :
    storeIdcode id parity (finish c s) = storeIdcode id parity s := rfl

theorem readIdcode_eq (s : State) : readIdcode env s = storeIdcode (firstBitLow 32 (swdReads env 32 s).1)
    (swdRead env (swdReads env 32 s).2).1 (swdRead env (swdReads env 32 s).2).2 := rfl

theorem readIdcode_finished (s : State) : readIdcode env (finish c s) = readIdcode env s := by
  rw [readIdcode_eq, readIdcode_eq, swdReads_finished, swdRead_finished, storeIdcode_finished]

/-- A transaction does not depend on how the command before it finished (R158). -/
theorem idcodeTxn_finished (s : State) : idcodeTxn env (finish c s) = idcodeTxn env s := by
  have habort (u : State) : abortIdcode (finish c u) = abortIdcode u := rfl
  simp only [idcodeTxn, requestIdcode_finished, finish_swdAck, readIdcode_finished, habort]

end Finished

/-- Settles O57: neither the next bits nor the transaction look at how the command before them finished. -/
theorem sprobeIsSequence : Obligations.SprobeIsSequence := by
  unfold Obligations.SprobeIsSequence
  intro s hb
  have bound (bs : List Bool) {u : State} (hu : u.sbound = true) : (afterWrites bs u).sbound = true :=
    (afterWrites_sbound bs u).trans hu
  have h1 := bound (lineResetBits s.params) hb
  have h2 := bound wakeBits h1
  refine ⟨_, _, _, _, exec_slrst hb, exec_swake h1, exec_sj2s h2, exec_slrst (bound _ h2), ?_⟩
  simp only [afterWrites_params, ← afterWrites_append]
  rw [exec_sprobe hb, idleCycles_eq, exec_sidcode ((swdWrites_sbound _ _).trans (bound _ hb)), afterWrites_params,
    afterWrites, swdWrites_finished, ← swdWrites_append, idcodeTxn_finished, finish_env, swdWrites_env]
  rfl

/-! #### A scripted target (R158) -/

/-- Each sample of the scripted line is the bit of the script that its place among the samples asks for. -/
theorem answered_swdScript {l : Nat} {bits : List Bool} : ∀ {es h : List Event}, answered (swdScript l bits) h es →
    (∀ k b, Event.sample k b ∈ es → k = l) → ∀ i, i < (sampledBits es).length →
    (sampledBits es).getD i false = bits.getD (samplesOf l h + i) true
  | [], _, _, _, i, hi => absurd hi (Nat.not_lt_zero i)
  | .cfg k d v :: es, h, hans, hline, i, hi =>
    answered_swdScript (h := .cfg k d v :: h) hans.2 (fun k b hmem => hline k b (.tail _ hmem)) i hi
  | .drive k v :: es, h, hans, hline, i, hi =>
    answered_swdScript (h := .drive k v :: h) hans.2 (fun k b hmem => hline k b (.tail _ hmem)) i hi
  | .sample k b :: es, h, hans, hline, i, hi => by
    obtain ⟨hbit, hrest⟩ := hans
    obtain rfl : k = l := hline k b (.head _)
    have hlater := answered_swdScript hrest fun k b hmem => hline k b (.tail _ hmem)
    cases i with
    | zero => simpa [sampledBits, swdScript] using hbit
    | succ i =>
      have hbit' := hlater i (by simpa [sampledBits] using hi)
      simp only [sampledBits, List.getD_cons_succ, hbit', samplesOf, if_pos]
      congr 1
      omega

theorem sample_notMem_swdWriteShape {s : State} {bits : List Bool} {k : Nat} {b : Bool} :
    Event.sample k b ∉ swdWriteShape s bits := by
  simp [swdWriteShape, swdClockShape]

theorem line_of_mem_swdReadShape {s : State} {n k : Nat} {b : Bool} (h : Event.sample k b ∈ swdReadShape s n) :
    k = s.role .swdio := by
  obtain ⟨-, hk, -⟩ : n ≠ 0 ∧ k = s.role .swdio ∧ b = false := by simpa [swdReadShape, swdClockShape] using h
  exact hk

/-- A transaction samples SWDIO only (R151, R158). -/
theorem line_of_mem_transactionShape {s : State} {ok : Bool} {k : Nat} {b : Bool}
    (h : Event.sample k b ∈ transactionShape s ok) : k = s.role .swdio := by
  have hread : (Event.sample k b ∈ swdReadShape s 3) ∨ ok = true ∧ Event.sample k b ∈ swdReadShape s 33 := by
    simpa [transactionShape, requestShape, closeShape, swdClockShape, sample_notMem_swdWriteShape] using h
  exact hread.elim line_of_mem_swdReadShape fun ⟨_, h⟩ => line_of_mem_swdReadShape h

/-- Sample `i` of a transaction with the scripted target is bit `i` of the script. -/
theorem IdcodeRead.scripted_sample {s t : State} {new : List Event} {bits : List Bool} {i : Nat}
    (h : IdcodeRead (swdScript (s.role .swdio) bits) [] s t new) (hfresh : samplesOf (s.role .swdio) s.hist = 0)
    (hi : i < (sampledBits new).length) : (sampledBits new).getD i false = bits.getD i true := by
  have hdio (k : Nat) (b : Bool) (hmem : Event.sample k b ∈ new) : k = s.role .swdio := by
    have hmasked : Event.sample k false ∈ new.map Event.masked := List.mem_map_of_mem (f := Event.masked) hmem
    rw [h.masked] at hmasked
    exact line_of_mem_transactionShape hmasked
  rw [answered_swdScript h.ans hdio i hi, hfresh, Nat.zero_add]

/-- The script of a target that answers ACK OK and then its IDCODE, first bit low (R158). -/
theorem swdTarget_ackOk (l : Nat) (data : Word) : swdTarget l 0b001#3 data =
    swdScript l (lsbits 0b001#3 3 ++ (lsbits data 32 ++ [evenParity (lsbits data 32)])) := rfl

theorem getD_lsbits_append {w n i : Nat} (v : BitVec w) (hi : i < n) (rest : List Bool) (d : Bool) :
    (lsbits v n ++ rest).getD i d = v.getLsbD i := by
  rw [List.getD_append _ _ _ _ (by rwa [lsbits_length])]
  simp [lsbits, List.getD, hi]

/-- The ACK is the first three bits of the script, the IDCODE the next 32 (R158). -/
theorem IdcodeRead.of_target_ok {s t : State} {new : List Event} {data : Word}
    (h : IdcodeRead (swdTarget (s.role .swdio) 0b001#3 data) [] s t new)
    (hfresh : samplesOf (s.role .swdio) s.hist = 0) :
    t.swdIdcode = data ∧ t.swdOk = true ∧ t.swdAck = 0b001#3 ∧ t.err = .eNone := by
  rw [swdTarget_ackOk] at h
  have hthree : 3 ≤ (sampledBits new).length := by
    by_cases hack : t.swdAck = 0b001#3
    · obtain ⟨hlen, -⟩ := h.ok hack
      omega
    · obtain ⟨hlen, -⟩ := h.other hack
      omega
  have hack : t.swdAck = 0b001#3 := BitVec.eq_of_getLsbD_eq fun i hi => by
    rw [h.ack i hi, h.scripted_sample hfresh (by omega), getD_lsbits_append _ hi]
  obtain ⟨hlen, hok, herr, -, hid⟩ := h.ok hack
  refine ⟨BitVec.eq_of_getLsbD_eq fun i hi => ?_, hok, hack, herr⟩
  rw [hid i hi, h.scripted_sample hfresh (by omega), List.getD_append_right _ _ _ _ (by rw [lsbits_length]; omega),
    lsbits_length, Nat.add_sub_cancel_left, getD_lsbits_append _ hi]

/-- Settles O58: the transaction's samples are the target's script. -/
theorem sidcodeReturnsTargetIdcode : Obligations.SidcodeReturnsTargetIdcode := by
  unfold Obligations.SidcodeReturnsTargetIdcode
  intro s data hs hb hfresh
  obtain ⟨new, h⟩ := idcodeTxn_reads (swdTarget (s.role .swdio) 0b001#3 data) (Inv_slive hs hb) []
  exact ⟨_, rfl, h.of_target_ok hfresh⟩

/-! #### Net line effects (R162) -/

section NetEffects
variable {s t : State}

theorem clockEdges_swdClock (s : State) : clockEdges (s.role .swclk) (swdClockShape s) = 1 := by
  simp [clockEdges, swdClockShape]

theorem clockEdges_swdWrites (hs : SLive s) (bits : List Bool) :
    clockEdges (s.role .swclk) (swdWriteShape s bits) = bits.length := by
  induction bits with
  | nil => rfl
  | cons b bits ih =>
    have hcons : swdWriteShape s (b :: bits) =
        [.drive (s.role .swdio) b] ++ (swdClockShape s ++ swdWriteShape s bits) := rfl
    have hdio : clockEdges (s.role .swclk) [.drive (s.role .swdio) b] = 0 := by
      simp [clockEdges, Ne.symm hs.clk_dio]
    rw [hcons, clockEdges_append, clockEdges_append, hdio, clockEdges_swdClock, ih, List.length_cons]
    omega

theorem clockEdges_swdReads (s : State) (n : Nat) : clockEdges (s.role .swclk) (swdReadShape s n) = n := by
  induction n with
  | zero => rfl
  | succ n ih =>
    have hsucc : swdReadShape s (n + 1) =
        [.sample (s.role .swdio) false] ++ (swdClockShape s ++ swdReadShape s n) := rfl
    have hsample : clockEdges (s.role .swclk) [.sample (s.role .swdio) false] = 0 := by simp [clockEdges]
    rw [hsucc, clockEdges_append, clockEdges_append, hsample, clockEdges_swdClock, ih]
    omega

theorem clockEdges_transaction (hs : SLive s) (ok : Bool) :
    clockEdges (s.role .swclk) (transactionShape s ok) = if ok then 46 else 13 := by
  have hcfg (d : Dir) (v : Option Bool) : clockEdges (s.role .swclk) [.cfg (s.role .swdio) d v] = 0 := by
    simp [clockEdges]
  have hrequest : requestShape s = swdWriteShape s (lsbits swdHeader 8) ++ [.cfg (s.role .swdio) .input none] ++
      swdClockShape s ++ swdReadShape s 3 := by simp [requestShape]
  simp only [transactionShape, hrequest, closeShape, clockEdges_append, clockEdges_swdWrites hs, clockEdges_swdClock,
    clockEdges_swdReads, hcfg, lsbits_length]
  cases ok
  · rfl
  · rw [if_pos rfl, clockEdges_swdReads]
    rfl

/-- R162's row for one command: its SWCLK pulses, and where the two lines end. -/
def SwdNetEffect (s t : State) (edges : Nat) (level : Bool) : Prop :=
  ∃ new, t.trace = s.trace ++ new ∧ clockEdges (s.role .swclk) new = edges ∧
    (t.line (s.role .swclk)).dir = .output ∧ (t.line (s.role .swclk)).out = false ∧
    (t.line (s.role .swdio)).dir = .output ∧ (t.line (s.role .swdio)).out = level

theorem Inv_swdReady (hs : s.Inv) (hb : s.sbound = true) : s.SwdReady := by
  obtain ⟨-, -, -, -, hswd⟩ := hs
  exact (hswd hb).2

/-- A command that changes no line but SWDIO leaves SWCLK as it was bound (R93). -/
theorem swdNetEffect_of_lines {new : List Event} {x : Line} (hs : s.Inv) (hb : s.sbound = true)
    (htrace : t.trace = s.trace ++ new) (hlines : t.lines = s.lines.set (s.role .swdio) x) (hdir : x.dir = .output) :
    SwdNetEffect s t (clockEdges (s.role .swclk) new) x.out := by
  have hlive := Inv_slive hs hb
  obtain ⟨-, hclk, hlow, -⟩ := Inv_swdReady hs hb
  have hclkLine : t.line (s.role .swclk) = s.line (s.role .swclk) := by
    simp [State.line, hlines, List.getD, Ne.symm hlive.clk_dio]
  have hdioLine : t.line (s.role .swdio) = x := by simp [State.line, hlines, List.getD, hlive.dio_lt]
  exact ⟨new, htrace, rfl, by rw [hclkLine, hclk], by rw [hclkLine, hlow], by rw [hdioLine, hdir], by rw [hdioLine]⟩

/-- The commands of R154 to R157: one pulse for each bit. -/
theorem afterWrites_netEffect (hs : s.Inv) (hb : s.sbound = true) (bits : List Bool) :
    SwdNetEffect s (afterWrites bits s) bits.length (bits.getLastD (s.line (s.role .swdio)).out) := by
  have hlive := Inv_slive hs hb
  have hend := swdWrites_finish hlive bits _ rfl
  obtain ⟨-, -, -, hdir⟩ := Inv_swdReady hs hb
  rw [← clockEdges_swdWrites hlive bits, afterWrites, hend]
  refine swdNetEffect_of_lines (x := { s.line (s.role .swdio) with out := _ }) hs hb ?_ rfl hdir
  simp [State.trace]

/-- `SIDCODE` and `SPROBE` (R158, R159): their error tells the two ACK cases apart. -/
theorem IdcodeRead.netEffect {env : Oracle} {lead : List Bool} {new : List Event} (hs : s.Inv) (hb : s.sbound = true)
    (h : IdcodeRead env lead s t new) :
    SwdNetEffect s t (if t.err = .eNone then lead.length + 46 else lead.length + 13) false := by
  have hlive := Inv_slive hs hb
  have hlines : t.lines = s.lines.set (s.role .swdio) ⟨.output, s.pull, false⟩ := by rw [h.frame]
  have hedges : clockEdges (s.role .swclk) new = if t.err = .eNone then lead.length + 46 else lead.length + 13 := by
    rw [← clockEdges_masked, h.masked, clockEdges_append, clockEdges_swdWrites hlive, clockEdges_transaction hlive]
    by_cases hack : t.swdAck = 0b001#3
    · obtain ⟨-, -, herr, -⟩ := h.ok hack
      simp [hack, herr]
    · obtain ⟨-, -, herr, -⟩ := h.other hack
      simp [hack, herr]
  rw [← hedges]
  exact swdNetEffect_of_lines hs hb h.trace hlines rfl

end NetEffects

theorem probeBits_length (p : Params) : (probeBits p).length = 3 * p.lineResetCycles + p.swdIdleCycles + 156 := by
  simp only [probeBits, List.length_append, lineResetBits_length, wakeBits_length, lsbits_length, List.length_replicate]
  omega

/-- Settles O59, row by row. -/
theorem swdNetEffects : Obligations.SwdNetEffects := by
  unfold Obligations.SwdNetEffects
  intro s hs hb hreset hidle i kOk kBad level hrow
  suffices h : ∃ t, exec i s = .next t ∧ SwdNetEffect s t (if t.err = .eNone then kOk else kBad) level by
    obtain ⟨t, hexec, new, hnew⟩ := h
    exact ⟨t, new, hexec, hnew⟩
  have hwrites (bits : List Bool) {n : Nat} {v : Bool} (hn : bits.length = n)
      (hv : bits.getLastD (s.line (s.role .swdio)).out = v) :
      SwdNetEffect s (afterWrites bits s) (if (afterWrites bits s).err = .eNone then n else n) v := by
    rw [ite_self, ← hn, ← hv]
    exact afterWrites_netEffect hs hb bits
  have hlen : (lineResetBits s.params).length = 52 := (lineResetBits_length _).trans hreset
  have hprobe : (probeBits s.params).length = 314 := by rw [probeBits_length]; omega
  simp only [List.mem_cons, Prod.mk.injEq, List.not_mem_nil, or_false] at hrow
  obtain ⟨rfl, rfl, rfl, rfl⟩ | ⟨rfl, rfl, rfl, rfl⟩ | ⟨rfl, rfl, rfl, rfl⟩ | ⟨rfl, rfl, rfl, rfl⟩ |
    ⟨rfl, rfl, rfl, rfl⟩ | ⟨rfl, rfl, rfl, rfl⟩ := hrow
  · obtain ⟨⟨hparams, -⟩, -⟩ := hs
    exact ⟨_, exec_slrst hb, hwrites _ hlen (lineResetBits_getLastD hparams _)⟩
  · exact ⟨_, exec_swake hb, hwrites _ wakeBits_length (wakeBits_getLastD _)⟩
  · exact ⟨_, exec_sj2s hb, hwrites _ (by rw [List.length_append, hlen, lsbits_length]) (getLastD_append _ _ _)⟩
  · exact ⟨_, exec_ss2j hb, hwrites _ (by rw [List.length_append, hlen, lsbits_length]) (getLastD_append _ _ _)⟩
  · obtain ⟨new, h⟩ := idcodeTxn_reads s.env (Inv_slive hs hb) []
    have hnet := h.netEffect hs hb
    rw [List.length_nil, Nat.zero_add, Nat.zero_add] at hnet
    exact ⟨_, exec_sidcode hb, hnet⟩
  · obtain ⟨new, h⟩ := idcodeTxn_reads s.env (Inv_slive hs hb) (probeBits s.params)
    have hnet := h.netEffect hs hb
    rw [hprobe] at hnet
    exact ⟨_, exec_sprobe hb, hnet⟩

end Sys2Proof.Machine

/-! ### Completion and errors (R180 to R189)

How a command ends, said once (`Completion`): turned away with a code before anything else has changed, or run to the
end of its body. Each statement reads its answer off the code a completion ends in. -/

namespace Sys2Proof.Machine

/-- The states command `i` may answer from `s`. Only the last two let it change more than `ERR` and the activity. -/
inductive Completion (i : Instr) (s : State) : State → Prop
  | unbound (hmissing : bindingMissing i s = true) : Completion i s (finish .eUnbound s)
  | badCount (hrange : outOfRange i s = true) : Completion i s (finish .eRange s)
  | notBindable (hi : i = .jbind ∨ i = .sbind) : Completion i s (finish .eBind s)
  | badAck (hi : i = .sidcode ∨ i = .sprobe) (u : State) : Completion i s (finish .eSwdAck u)
  | done (u : State) : Completion i s (finish .eNone u)

/-! #### The checks before the body (R183, R184) -/

section Checks
variable {i : Instr} {s : State}

theorem bindingMissing_eq_true_iff (i : Instr) (s : State) : bindingMissing i s = true ↔
    (needsJtag i = true ∧ s.jbound = false) ∨ (needsTrst i = true ∧ s.trstEn = false) ∨
      (needsSwd i = true ∧ s.sbound = false) := by
  simp [bindingMissing, or_assoc]

theorem bindingMissing_eq_false_iff (i : Instr) (s : State) : bindingMissing i s = false ↔
    (needsJtag i = true → s.jbound = true) ∧ (needsTrst i = true → s.trstEn = true) ∧
      (needsSwd i = true → s.sbound = true) := by
  rw [← Bool.not_eq_true, bindingMissing_eq_true_iff]
  simp only [not_or, not_and, Bool.not_eq_false]

theorem needsTrst_iff (i : Instr) : needsTrst i = true ↔ ∃ b, i = .jtrst b := by
  cases i <;> simp [needsTrst]

/-- R183: a missing binding is the first thing a command finds. -/
theorem exec_of_bindingMissing (h : bindingMissing i s = true) : exec i s = .next (finish .eUnbound s) := by
  obtain ⟨hi, hj⟩ | ⟨hi, hen⟩ | ⟨hi, hb⟩ := (bindingMissing_eq_true_iff i s).mp h
  · exact exec_jtag_unbound hi hj
  · obtain ⟨b, rfl⟩ := (needsTrst_iff i).mp hi
    obtain ⟨-, hjtrst⟩ := jtrstDrives
    exact (hjtrst s b).2 (.inr hen)
  · exact exec_swd_unbound hi hb

/-- R184, R188: once the binding is there, a count out of range is. -/
theorem exec_of_outOfRange (hbound : bindingMissing i s = false) (h : outOfRange i s = true) :
    exec i s = .next (finish .eRange s) := by
  obtain ⟨hjtag, -, -⟩ := (bindingMissing_eq_false_iff i s).mp hbound
  cases i with
  | jsend n => rw [exec_jsend (hjtag rfl), jsendBody, if_pos (by simpa [outOfRange] using h), raiseError_eq]
  | jids n => rw [exec_jids (hjtag rfl), jidsBody, if_pos (by simpa [outOfRange] using h), raiseError_eq]
  | jbypass n => rw [exec_jbypass (hjtag rfl), jbypassBody, if_pos (by simpa [outOfRange] using h), raiseError_eq]
  | _ => exact Bool.noConfusion h

end Checks

/-! #### The body -/

/-- R158: the transaction finishes the command, by the ACK it received. -/
theorem idcodeTxn_completion {i : Instr} (hi : i = .sidcode ∨ i = .sprobe) (s : State) (env : Oracle) (t : State) :
    Completion i s (idcodeTxn env t) := by
  dsimp only [idcodeTxn]
  split
  · exact .done _
  · exact .badAck hi _

/-- R180, R189: a command that passes the checks completes, and no error but `E_BIND` and `E_SWD_ACK` is left. -/
theorem exec_completes_of_checks {i : Instr} {s : State} (hbound : bindingMissing i s = false)
    (hrange : outOfRange i s = false) : ∃ t, exec i s = .next t ∧ Completion i s t := by
  obtain ⟨hjtag, htrst, hswd⟩ := (bindingMissing_eq_false_iff i s).mp hbound
  cases i with
  | nop => exact ⟨_, rfl, .done s⟩
  | lrelease => exact ⟨_, rfl, .done _⟩
  | jbind =>
    refine ⟨_, exec_jbind s, ?_⟩
    split
    · exact .done _
    · exact .notBindable (.inl rfl)
  | sbind =>
    refine ⟨_, exec_sbind s, ?_⟩
    split
    · exact .done _
    · exact .notBindable (.inr rfl)
  | jclk => exact ⟨_, exec_jclk (hjtag rfl), .done _⟩
  | jtdi b => exact ⟨_, exec_jtdi (hjtag rfl) b, .done _⟩
  | jtms b => exact ⟨_, exec_jtms (hjtag rfl) b, .done _⟩
  | jrdb => exact ⟨_, exec_jrdb (hjtag rfl), .done _⟩
  | jidle => exact ⟨_, exec_jidle (hjtag rfl), .done _⟩
  | jsdr => exact ⟨_, exec_jsdr (hjtag rfl), .done _⟩
  | jsir => exact ⟨_, exec_jsir (hjtag rfl), .done _⟩
  | jshift n => exact ⟨_, exec_jshift (hjtag rfl) n, .done _⟩
  | jsend n =>
    have hn : ¬ n = 0 := by simpa [outOfRange] using hrange
    exact ⟨_, (exec_jsend (hjtag rfl) n).trans (congrArg _ (if_neg hn)), .done _⟩
  | jtrst b =>
    exact ⟨_, (exec_jtrst (hjtag rfl) b).trans (congrArg _ (if_pos (htrst rfl))), .done _⟩
  | jdetect => exact ⟨_, exec_jdetect (hjtag rfl), .done _⟩
  | jids n =>
    have hn : ¬ n > s.params.maxDevices := by simpa [outOfRange] using hrange
    exact ⟨_, (exec_jids (hjtag rfl) n).trans (congrArg _ (if_neg hn)), .done _⟩
  | jbypass n =>
    have hn : ¬ n > s.params.maxDevices := by simpa [outOfRange] using hrange
    exact ⟨_, (exec_jbypass (hjtag rfl) n).trans (congrArg _ (if_neg hn)), .done _⟩
  | jidchk => exact ⟨_, rfl, .done _⟩
  | slrst => exact ⟨_, exec_slrst (hswd rfl), .done _⟩
  | swake => exact ⟨_, exec_swake (hswd rfl), .done _⟩
  | sj2s => exact ⟨_, exec_sj2s (hswd rfl), .done _⟩
  | ss2j => exact ⟨_, exec_ss2j (hswd rfl), .done _⟩
  | sidcode => exact ⟨_, exec_sidcode (hswd rfl), idcodeTxn_completion (.inl rfl) s _ _⟩
  | sprobe => exact ⟨_, exec_sprobe (hswd rfl), idcodeTxn_completion (.inr rfl) s _ _⟩

/-- Every command completes, in every state. -/
theorem exec_completes (i : Instr) (s : State) : ∃ t, exec i s = .next t ∧ Completion i s t := by
  cases hmissing : bindingMissing i s with
  | true => exact ⟨_, exec_of_bindingMissing hmissing, .unbound hmissing⟩
  | false =>
    cases hrange : outOfRange i s with
    | true => exact ⟨_, exec_of_outOfRange hmissing hrange, .badCount hrange⟩
    | false => exact exec_completes_of_checks hmissing hrange

/-! #### What a completion tells -/

section Codes
variable {i : Instr} {s t : State}

theorem exec_completion (h : exec i s = .next t) : Completion i s t := by
  obtain ⟨u, hu, hend⟩ := exec_completes i s
  obtain rfl : u = t := by simpa [hu] using h
  exact hend

theorem Completion.activity (h : Completion i s t) : t.activity = .idle := by cases h <;> rfl

theorem Completion.err_ne_eIllegal (h : Completion i s t) : t.err ≠ .eIllegal := by cases h <;> simp

theorem Completion.bindingMissing_of_eUnbound (h : Completion i s t) (he : t.err = .eUnbound) :
    bindingMissing i s = true := by
  cases h with
  | unbound hmissing => exact hmissing
  | _ => exact Code.noConfusion he

theorem Completion.outOfRange_of_eRange (h : Completion i s t) (he : t.err = .eRange) : outOfRange i s = true := by
  cases h with
  | badCount hrange => exact hrange
  | _ => exact Code.noConfusion he

theorem Completion.bind_of_eBind (h : Completion i s t) (he : t.err = .eBind) : i = .jbind ∨ i = .sbind := by
  cases h with
  | notBindable hi => exact hi
  | _ => exact Code.noConfusion he

theorem Completion.transaction_of_eSwdAck (h : Completion i s t) (he : t.err = .eSwdAck) :
    i = .sidcode ∨ i = .sprobe := by
  cases h with
  | badAck hi u => exact hi
  | _ => exact Code.noConfusion he

/-- R189: a command that is turned away has written its code and nothing else. -/
theorem Completion.unchanged (h : Completion i s t) (hnone : t.err ≠ .eNone) (hack : t.err ≠ .eSwdAck) :
    t = { s with err := t.err, activity := .idle } := by
  cases h with
  | badAck hi u => exact absurd rfl hack
  | done u => exact absurd rfl hnone
  | _ => rfl

end Codes

/-- R57, R180: a host access answers a next state, since the command it starts does. -/
theorem step_answers (s : State) : canStep s := by
  unfold canStep step
  split
  next u _ => exact ⟨u, rfl⟩
  next u i _ =>
    obtain ⟨t, ht, -⟩ := exec_completes i u
    exact ⟨t, ht⟩

/-- Settles O20: every completion is a `Finish`. -/
theorem commandsAlwaysFinish : Obligations.CommandsAlwaysFinish := by
  unfold Obligations.CommandsAlwaysFinish
  refine ⟨fun i s => ?_, step_answers⟩
  obtain ⟨t, ht, hend⟩ := exec_completes i s
  exact ⟨t, ht, hend.activity⟩

/-- Settles O24: the binding check turns a command away, and nothing else ends in its code. -/
theorem unboundCommands : Obligations.UnboundCommands := by
  unfold Obligations.UnboundCommands
  refine fun i s => ⟨exec_of_bindingMissing, fun hbound => ?_⟩
  obtain ⟨t, ht, hend⟩ := exec_completes i s
  exact ⟨t, ht, fun he => Bool.noConfusion (hbound.symm.trans (hend.bindingMissing_of_eUnbound he))⟩

/-- Settles O25: the same for the range check, which comes after the binding check. -/
theorem rangeErrors : Obligations.RangeErrors := by
  unfold Obligations.RangeErrors
  refine fun i s hbound => ⟨exec_of_outOfRange hbound, fun hrange => ?_⟩
  obtain ⟨t, ht, hend⟩ := exec_completes i s
  exact ⟨t, ht, fun he => Bool.noConfusion (hrange.symm.trans (hend.outOfRange_of_eRange he))⟩

/-- Settles O26: what each code says of the completion that ends in it. -/
theorem errorsLeaveStateUnchanged : Obligations.ErrorsLeaveStateUnchanged := by
  unfold Obligations.ErrorsLeaveStateUnchanged
  intro i s t h
  have hend := exec_completion h
  exact ⟨hend.unchanged, hend.err_ne_eIllegal, hend.bind_of_eBind, hend.transaction_of_eSwdAck⟩

/-! #### Too few candidate lines (R186) -/

section Candidates
variable {s : State}

/-- Distinct candidate lines are no more than there are candidates. -/
theorem length_le_candLines {ls : List Nat} (hnodup : ls.Nodup) (howns : ∀ l ∈ ls, s.owns l = true) :
    ls.length ≤ s.candLines.length :=
  (hnodup.subperm fun l hl => (mem_candLines s l).mpr (howns l hl)).length_le

theorem jtagLines_length (s : State) : s.jtagLines.length = if s.trstEn then 5 else 4 := by
  unfold State.jtagLines
  split <;> rfl

theorem jtagBindable_length_le (h : s.jtagBindable = true) :
    (if s.trstEn then 5 else 4) ≤ s.candLines.length := by
  obtain ⟨hnodup, howns⟩ := (jtagBindable_iff s).mp h
  exact jtagLines_length s ▸ length_le_candLines hnodup howns

theorem swdBindable_length_le (h : s.swdBindable = true) : 2 ≤ s.candLines.length := by
  obtain ⟨hnodup, howns⟩ := (swdBindable_iff s).mp h
  exact length_le_candLines hnodup howns

end Candidates

/-- Settles O32: a bind that succeeds has a candidate line for each of its roles. -/
theorem tooFewCandidatesFailBind : Obligations.TooFewCandidatesFailBind := by
  unfold Obligations.TooFewCandidatesFailBind
  refine fun s => ⟨fun hfew => ?_, fun hfew => ?_⟩
  · rw [exec_jbind, if_neg fun h => hfew.not_ge (jtagBindable_length_le h), finish]
  · rw [exec_sbind, if_neg fun h => hfew.not_ge (swdBindable_length_le h), finish]

end Sys2Proof.Machine

/-! ### The reset input (R200 to R202) -/

namespace Sys2Proof.Machine

/-- R200: the reset input is served whole, with no command after it. -/
theorem step_reset {s : State} {rest : List HostOp} (hin : s.inputs = .reset :: rest) :
    step s = .next (takeReset { s with inputs := rest }) := by
  simp [step, serve, hin, serveOp]

/-- Settles O17: `takeReset` builds the reset state anew from the parameters, and `State.reset` is the one built from
`Config.params`. -/
theorem resetInputResets : Obligations.ResetInputResets := by
  unfold Obligations.ResetInputResets
  intro s rest hin
  refine ⟨_, step_reset hin, rfl, fun hparams => ?_⟩
  rw [takeReset, hparams]
  rfl

end Sys2Proof.Machine

/-! ### TCK pulses of each command (R216)

The statements about the commands give their events as shapes; here the clock pulses of those shapes are counted. -/

namespace Sys2Proof.Machine

/-! #### Clock pulses of the longer shapes (R105, R130 to R133) -/

section Shapes
variable {s : State}

theorem clockEdges_eq_zero_iff {l : Nat} {es : List Event} : clockEdges l es = 0 ↔ Event.drive l true ∉ es :=
  List.count_eq_zero

theorem clockEdges_sentBits (hs : JLive s) (p : Word) (n : Nat) :
    clockEdges (s.role .tck) (shiftShape s (sentBits p n)) = n := by
  rw [clockEdges_shift hs, sentBits_length]

theorem clockEdges_floodExit (hs : JLive s) {n : Nat} (hn : 1 ≤ n) :
    clockEdges (s.role .tck) (floodExitShape s n) = n := by
  rw [floodExitShape, clockEdges_append, clockEdges_tms hs, clockEdges_pulses, clockEdges_pulse]
  omega

/-- Phase 1 of `JDETECT` makes the pulses that `detectLead` leaves for it beside `RestoreIdle` and the zero fill. -/
theorem clockEdges_detectFlood (hs : JLive s) (hfill : 1 ≤ s.params.irFloodBits) :
    7 + clockEdges (s.role .tck) (detectFloodShape s) + s.params.irZeroBits = detectLead s.params := by
  rw [detectFloodShape, clockEdges_append, clockEdges_walk hs, clockEdges_tdi hs, detectLead]
  cases s.params.detectMode with
  | irBits =>
    simp only [clockEdges_pulses, List.length_cons, List.length_nil]
    omega
  | bypassCount =>
    simp only [clockEdges_append, clockEdges_floodExit hs hfill, clockEdges_walk hs, List.length_cons, List.length_nil]
    omega

theorem clockEdges_detect (hs : JLive s) (hfill : 1 ≤ s.params.irFloodBits) (k : Nat) :
    clockEdges (s.role .tck) (detectShape s k) = detectLead s.params + 7 + k := by
  simp only [detectShape, clockEdges_append, clockEdges_walk hs, clockEdges_tdi hs, clockEdges_pulses, idleLevels,
    List.length_cons, List.length_nil, ← clockEdges_detectFlood hs hfill]
  omega

theorem clockEdges_ids (hs : JLive s) (n : Nat) : clockEdges (s.role .tck) (idsShape s n) = 17 + 32 * n := by
  simp only [idsShape, clockEdges_append, clockEdges_walk hs, clockEdges_tdi hs, clockEdges_pulses, idleLevels,
    List.length_cons, List.length_nil]
  omega

theorem clockEdges_bypass (hs : JLive s) (hfill : 1 ≤ s.params.irFloodBits) (n : Nat) :
    clockEdges (s.role .tck) (bypassShape s n) = s.params.irFloodBits + 55 + n := by
  simp only [bypassShape, clockEdges_append, clockEdges_walk hs, clockEdges_tdi hs, clockEdges_floodExit hs hfill,
    clockEdges_sentBits hs, idleLevels, List.length_cons, List.length_nil]
  omega

end Shapes

/-! #### The rows of R216 -/

/-- R216's row for one command: from `s` it makes `k` TCK pulses. -/
def TckPulses (i : Instr) (s : State) (k : Nat) : Prop :=
  ∃ t new, exec i s = .next t ∧ t.trace = s.trace ++ new ∧ clockEdges (s.role .tck) new = k

section Rows
variable {i : Instr} {s t : State} {new shape : List Event} {k : Nat}

/-- The sampled bits do not matter to the count. -/
theorem TckPulses.of_shape (hexec : exec i s = .next t) (htrace : t.trace = s.trace ++ new)
    (hmasked : new.map Event.masked = shape) (hk : clockEdges (s.role .tck) shape = k) : TckPulses i s k :=
  ⟨t, new, hexec, htrace, by rw [← clockEdges_masked, hmasked, hk]⟩

theorem TckPulses.of_hist (hexec : exec i s = .next t) (hhist : t.hist = new.reverse ++ s.hist)
    (hk : clockEdges (s.role .tck) new = k) : TckPulses i s k :=
  ⟨t, new, hexec, by simp [State.trace, hhist], hk⟩

/-- A command that adds no event, be it turned away or not, makes no pulse. -/
theorem TckPulses.of_same_hist (hexec : exec i s = .next t) (hhist : t.hist = s.hist) : TckPulses i s 0 :=
  .of_hist (new := []) hexec hhist rfl

end Rows

/-! #### Commands that only configure lines (R91 to R93) -/

section Configure
variable (s : State)

theorem tckPulses_lrelease : TckPulses .lrelease s 0 :=
  ⟨_, _, rfl, makeInputs_trace s.candLines s, clockEdges_eq_zero_iff.mpr (by simp)⟩

theorem tckPulses_jbind : TckPulses .jbind s 0 := by
  by_cases hbind : s.jtagBindable = true
  · have htrace := (bindJtagLines_trace s).trans
      ((List.append_assoc _ _ _).trans (List.append_assoc _ _ _))
    refine ⟨concludeBind true false (bindJtagLines s), _, by rw [exec_jbind, if_pos hbind], htrace,
      clockEdges_eq_zero_iff.mpr ?_⟩
    cases s.trstEn <;> simp
  · exact .of_same_hist (by rw [exec_jbind, if_neg hbind]) (finish_hist _ s)

theorem tckPulses_sbind : TckPulses .sbind s 0 := by
  by_cases hbind : s.swdBindable = true
  · have htrace := (bindSwdLines_trace s).trans (List.append_assoc _ _ _)
    exact ⟨concludeBind false true (bindSwdLines s), _, by rw [exec_sbind, if_pos hbind], htrace,
      clockEdges_eq_zero_iff.mpr (by simp)⟩
  · exact .of_same_hist (by rw [exec_sbind, if_neg hbind]) (finish_hist _ s)

end Configure

/-! #### Commands on bound lines -/

section Bound
variable {s : State} (hs : s.Inv) (hj : s.jbound = true)
include hs hj

theorem tckPulses_jtdi (b : Bool) : TckPulses (.jtdi b) s 0 :=
  .of_hist (new := [.drive (s.role .tdi) b]) (exec_jtdi hj b) rfl (clockEdges_tdi (Inv_jlive hs hj) b [])

theorem tckPulses_jtms (b : Bool) : TckPulses (.jtms b) s 0 :=
  .of_hist (new := [.drive (s.role .tms) b]) (exec_jtms hj b) rfl (clockEdges_tms (Inv_jlive hs hj) b [])

/-- R115: TRST, where it is enabled, is not the line of TCK. -/
theorem tckPulses_jtrst (b : Bool) : TckPulses (.jtrst b) s 0 := by
  obtain ⟨-, htrst⟩ := jtrstDrives
  obtain ⟨hdrives, hunbound⟩ := htrst s b
  by_cases hen : s.trstEn = true
  · have hne := (Inv_jlive hs hj).trst_tck hen
    exact .of_hist (new := [.drive (s.role .trst) b]) (hdrives hj hen) rfl (clockEdges_eq_zero_iff.mpr (by simp [hne]))
  · exact .of_same_hist (hunbound (.inr (by simpa using hen))) rfl

theorem tckPulses_jclk : TckPulses .jclk s 1 := by
  have h := pulse_block s.env (Inv_jlive hs hj)
  exact .of_shape (exec_jclk hj) (JBlock_trace h :) h.masked (clockEdges_pulse s)

theorem tckPulses_jidle : TckPulses .jidle s 7 := by
  obtain ⟨-, hidle⟩ := jidleRestoresIdle
  obtain ⟨t, new, hexec, htrace, hmasked, -⟩ := hidle s hs hj
  exact .of_shape hexec htrace hmasked (clockEdges_walk (Inv_jlive hs hj) _)

theorem tckPulses_jsdr : TckPulses .jsdr s 3 := by
  obtain ⟨-, -, -, hwalk⟩ := jsdrJsirWalk
  obtain ⟨⟨t, new, hexec, htrace, hmasked, -⟩, -⟩ := hwalk s hs hj
  exact .of_shape hexec htrace hmasked (clockEdges_walk (Inv_jlive hs hj) _)

theorem tckPulses_jsir : TckPulses .jsir s 4 := by
  obtain ⟨-, -, -, hwalk⟩ := jsdrJsirWalk
  obtain ⟨-, t, new, hexec, htrace, hmasked, -⟩ := hwalk s hs hj
  exact .of_shape hexec htrace hmasked (clockEdges_walk (Inv_jlive hs hj) _)

theorem tckPulses_jshift (n : Nat) : TckPulses (.jshift n) s n := by
  obtain ⟨-, -, hshift⟩ := jshiftShifts
  obtain ⟨t, new, hexec, htrace, hmasked, -⟩ := hshift s n hs hj
  exact .of_shape hexec htrace hmasked (clockEdges_sentBits (Inv_jlive hs hj) _ n)

theorem tckPulses_jsend {n : Nat} (hn : 1 ≤ n) : TckPulses (.jsend n) s (n + 5) := by
  have hlive := Inv_jlive hs hj
  obtain ⟨-, -, -, hsend⟩ := jsendSends
  obtain ⟨t, new, hexec, htrace, hmasked, -⟩ := hsend s n hs hj hn
  refine .of_shape hexec htrace hmasked ?_
  simp only [clockEdges_append, clockEdges_walk hlive, clockEdges_sentBits hlive, List.length_cons, List.length_nil]
  omega

theorem tckPulses_jids {n : Nat} (hn : n ≤ s.params.maxDevices) : TckPulses (.jids n) s (17 + 32 * n) := by
  obtain ⟨-, hids⟩ := jidsReadsWords
  obtain ⟨t, new, hexec, htrace, hmasked, -⟩ := hids s n hs hj hn
  exact .of_shape hexec htrace hmasked (clockEdges_ids (Inv_jlive hs hj) n)

theorem tckPulses_jbypass {n : Nat} (hn : n ≤ s.params.maxDevices) (hfill : 1 ≤ s.params.irFloodBits) :
    TckPulses (.jbypass n) s (s.params.irFloodBits + 55 + n) := by
  obtain ⟨-, hbypass⟩ := jbypassEchoes
  obtain ⟨t, new, hexec, htrace, hmasked, -⟩ := hbypass s n hs hj hn
  exact .of_shape hexec htrace hmasked (clockEdges_bypass (Inv_jlive hs hj) hfill n)

/-- R130: phase 3 makes at least one pulse and at most `MAX_DEVICES + 1`. -/
theorem tckPulses_jdetect (hfill : 1 ≤ s.params.irFloodBits) :
    ∃ z, 1 ≤ z ∧ z ≤ s.params.maxDevices + 1 ∧ TckPulses .jdetect s (detectLead s.params + 7 + z) := by
  obtain ⟨-, hdetect⟩ := jdetectCounts
  obtain ⟨t, new, c, z, hexec, htrace, hmasked, -, -, hz, -⟩ := hdetect s hs hj
  exact ⟨z, by omega, by omega, .of_shape hexec htrace hmasked (clockEdges_detect (Inv_jlive hs hj) hfill z)⟩

end Bound

/-- Settles O45, row by row; the two modes of `JDETECT` differ by the five pulses of R131. -/
theorem jtagPulseCounts : Obligations.JtagPulseCounts := by
  unfold Obligations.JtagPulseCounts
  intro s n m b hs hj hm hflood hzero
  have hfill : 1 ≤ s.params.irFloodBits := by omega
  refine ⟨fun i k hrow => ?_, ?_⟩
  · change TckPulses i s k
    simp only [List.mem_cons, Prod.mk.injEq, List.not_mem_nil, or_false] at hrow
    obtain ⟨rfl, rfl⟩ | ⟨rfl, rfl⟩ | ⟨rfl, rfl⟩ | ⟨rfl, rfl⟩ | ⟨rfl, rfl⟩ | ⟨rfl, rfl⟩ | ⟨rfl, rfl⟩ | ⟨rfl, rfl⟩ |
      ⟨rfl, rfl⟩ | ⟨rfl, rfl⟩ | ⟨rfl, rfl⟩ | ⟨rfl, rfl⟩ | ⟨rfl, rfl⟩ | ⟨rfl, rfl⟩ | ⟨rfl, rfl⟩ | ⟨rfl, rfl⟩ |
      ⟨rfl, rfl⟩ := hrow
    · exact .of_same_hist rfl rfl
    · exact tckPulses_lrelease s
    · exact tckPulses_jbind s
    · exact tckPulses_sbind s
    · exact tckPulses_jtdi hs hj b
    · exact tckPulses_jtms hs hj b
    · exact .of_hist (new := [.sample _ _]) (exec_jrdb hj) rfl rfl
    · exact tckPulses_jtrst hs hj b
    · exact .of_same_hist rfl rfl
    · exact tckPulses_jclk hs hj
    · exact tckPulses_jidle hs hj
    · exact tckPulses_jsdr hs hj
    · exact tckPulses_jsir hs hj
    · exact tckPulses_jshift hs hj _
    · exact tckPulses_jsend hs hj (Nat.le_add_left 1 n)
    · exact tckPulses_jids hs hj hm
    · have h := tckPulses_jbypass hs hj hm hfill
      rwa [hflood] at h
  · obtain ⟨z, hpos, hle, t, new, hexec, htrace, hcount⟩ := tckPulses_jdetect hs hj hfill
    refine ⟨t, new, z, hexec, htrace, hpos, hle, hcount.trans ?_⟩
    rw [detectLead, hflood, hzero]
    cases s.params.detectMode <;> rfl

end Sys2Proof.Machine
